-- ==== Sys2Proof/Word.lean ====
section
/-! DEFINITION. The two value types of the engine: bytes and words (00_scope.md R9). -/

namespace Sys2Proof

/-- A "byte": an unsigned 8-bit value 0..255 (R9). -/
abbrev Byte := BitVec 8

/-- A "word": an unsigned 32-bit value (R9). -/
abbrev Word := BitVec 32

end Sys2Proof
end

