-- ==== Sys2Proof/Syntax.lean ====
section
/-! DEFINITION. Syntax: the eight transaction kinds (R81), the request they are carried in (R11, R80),
the causes a request is refused for (R151), and the host's transaction scripts (R90, R91). -/

namespace Sys2Proof

/-- The legal transactions, one constructor per row of the opcode map (R81), with the operand fields
of R84 only: a read's WDATA is ignored (R35) and a write's reserved bits are 0 (R85). -/
inductive Instr where
  /-- RD_ID (R130). -/
  | rdId
  /-- WR_CTRL with the INIT bit i = WDATA[0] (R108). -/
  | wrCtrl (i : Bool)
  /-- RD_STATUS (R131). -/
  | rdStatus
  /-- WR_STATUS with the ERR-clear bit c = WDATA[0] (R134). -/
  | wrStatus (c : Bool)
  /-- WR_DATA8 with the byte b = WDATA[7:0] (R109). -/
  | wrData8 (b : Byte)
  /-- WR_DATA32 with the word w = WDATA[31:0] (R110). -/
  | wrData32 (w : Word)
  /-- RD_RESULT (R132). -/
  | rdResult
  /-- RD_COUNT (R133). -/
  | rdCount
  deriving DecidableEq, Repr

/-- The transaction kinds without their operands: the mnemonics of R81. -/
inductive Kind where
  | rdId | wrCtrl | rdStatus | wrStatus | wrData8 | wrData32 | rdResult | rdCount
  deriving DecidableEq, Repr

/-- A request q = (we, size, addr, wdata): the signals sampled at the acceptance edge (R11, R80). -/
structure Request where
  /-- `req_we`: 1 = write, 0 = read. -/
  we : Bool
  /-- `req_size` (R82). -/
  size : BitVec 2
  /-- `req_addr`: the byte offset in the window. -/
  addr : BitVec 5
  /-- `req_wdata`: ignored for reads. -/
  wdata : Word
  deriving DecidableEq, Repr

/-- The names of the cause codes 1 to 6 (R151). Code 0 (NONE) is the absence of a cause and code 7 is
never produced. -/
inductive AccessCause where
  | badSize | misaligned | unmapped | writeRo | readWo | reservedBits
  deriving DecidableEq, Repr

/-- The seven registers of the window (R30); slot 7 holds none. -/
inductive Reg where
  | id | ctrl | status | data8 | data32 | result | count
  deriving DecidableEq, Repr

/-- The four SIZE values as scripts spell them: b, h, w, r (R82, R90). -/
inductive SizeCode where
  | byte | half | word | reserved
  deriving DecidableEq, Repr

/-- A statement of a host transaction script (R90). `imm` and `off` are the numbers as written: the
assembler refuses those out of range (WellFormed.lean). -/
inductive Stmt where
  /-- `rd REG` -/
  | rd (r : Reg)
  /-- `wr REG, imm` -/
  | wr (r : Reg) (imm : Nat)
  /-- `rd.raw SZ, off` -/
  | rdRaw (sz : SizeCode) (off : Nat)
  /-- `wr.raw SZ, off, imm` -/
  | wrRaw (sz : SizeCode) (off : Nat) (imm : Nat)
  deriving DecidableEq, Repr

/-- The pseudo-instructions (R91). -/
inductive Pseudo where
  | init
  | nop
  | clrerr
  | absorb8 (b : Byte)
  | absorb32 (b0 b1 b2 b3 : Byte)
  | absorb (bs : List Byte)
  | hash (bs : List Byte)
  deriving DecidableEq, Repr

/-- What a script line records of the response: nothing, `; -> v`, or `; err` (R90). -/
inductive Note where
  | none
  | reads (v : Nat)
  | err
  deriving DecidableEq, Repr

/-- What stands on a script line: a statement or a pseudo-instruction. -/
inductive Code where
  | stmt (s : Stmt)
  | pseudo (p : Pseudo)
  deriving DecidableEq, Repr

/-- One line of a script: its code and the response it records (R90). -/
structure Line where
  code : Code
  note : Note
  deriving DecidableEq, Repr

/-- Why the assembler refuses a statement (R90). -/
inductive AsmError where
  /-- `rd` of a write-only register. -/
  | readOfWriteOnly
  /-- `wr` of a read-only register. -/
  | writeOfReadOnly
  /-- A `wr` whose immediate sets reserved bits. -/
  | reservedBits
  /-- An immediate above 2^32-1. -/
  | immediateTooLarge
  /-- An offset above 31. -/
  | offsetTooLarge
  deriving DecidableEq, Repr

end Sys2Proof
end

