-- ==== Sys2Proof/WellFormed.lean ====
section
/-! DEFINITION. Well-formedness. An instruction's operand fields have the widths of R84, so every term
of `Instr` is encodable. The assembler's own checks are those of R90, one function each. -/

namespace Sys2Proof

/-- Every legal transaction is well formed: its operands are exactly the fields of R84, at their own
widths, and it holds no reserved bit (R85). -/
def Instr.wellFormed : Instr → Bool
  | .rdId => true
  | .wrCtrl _ => true
  | .rdStatus => true
  | .wrStatus _ => true
  | .wrData8 _ => true
  | .wrData32 _ => true
  | .rdResult => true
  | .rdCount => true

/-- The registers a host can read: ID, STATUS, RESULT and COUNT (R30). -/
def Reg.readable : Reg → Bool
  | .id => true
  | .ctrl => false
  | .status => true
  | .data8 => false
  | .data32 => false
  | .result => true
  | .count => true

/-- The registers a host can write: CTRL, STATUS, DATA8 and DATA32 (R30). -/
def Reg.writable : Reg → Bool
  | .id => false
  | .ctrl => true
  | .status => true
  | .data8 => true
  | .data32 => true
  | .result => false
  | .count => false

/-- One more than the largest immediate that sets no reserved bit of the register, for the writable
registers (R24, R27, R28); a read-only register has no write format. -/
def Reg.immediateBound : Reg → Nat
  | .ctrl => 2
  | .status => 2
  | .data8 => 256
  | .data32 => 2 ^ 32
  | .id => 2 ^ 32
  | .result => 2 ^ 32
  | .count => 2 ^ 32

/-- Check: `rd` names a readable register (R90). -/
def Stmt.readsReadable : Stmt → Bool
  | .rd r => r.readable
  | _ => true

/-- Check: `wr` names a writable register (R90). -/
def Stmt.writesWritable : Stmt → Bool
  | .wr r _ => r.writable
  | _ => true

/-- Check: an immediate is at most 2^32-1 (R90). -/
def Stmt.immediateFits : Stmt → Bool
  | .wr _ imm => imm < 2 ^ 32
  | .wrRaw _ _ imm => imm < 2 ^ 32
  | _ => true

/-- Check: the immediate of a `wr` sets no reserved bit (R90). An immediate above 2^32-1 fails the
check above, not this one. -/
def Stmt.reservedClear : Stmt → Bool
  | .wr r imm => imm < r.immediateBound || 2 ^ 32 ≤ imm
  | _ => true

/-- Check: an offset is at most 31 (R90). -/
def Stmt.offsetFits : Stmt → Bool
  | .rdRaw _ off => off < 32
  | .wrRaw _ off _ => off < 32
  | _ => true

/-- Every reason the assembler has to refuse a statement (R90). -/
def Stmt.refusals (s : Stmt) : List AsmError :=
  (if s.readsReadable then [] else [.readOfWriteOnly]) ++
  (if s.writesWritable then [] else [.writeOfReadOnly]) ++
  (if s.immediateFits then [] else [.immediateTooLarge]) ++
  (if s.reservedClear then [] else [.reservedBits]) ++
  (if s.offsetFits then [] else [.offsetTooLarge])

/-- A statement the assembler accepts (R90). -/
def Stmt.wellFormed (s : Stmt) : Bool := s.refusals.isEmpty

end Sys2Proof
end

