-- ==== Sys2Proof/Decode.lean ====
section
/-! DEFINITION. The 40-bit request word (R80), the opcode map (R81), the checks and their priority
(R152), the decoder (R86, R87), and after it the encoder. -/

namespace Sys2Proof

/-- The request a 40-bit request word packs (R80). -/
def Request.ofWord (word : BitVec 40) : Request where
  we := word.getLsbD 39
  size := word.extractLsb' 37 2
  addr := word.extractLsb' 32 5
  wdata := word.extractLsb' 0 32

/-- The 40-bit request word of a request: WE, SIZE, ADDR, WDATA from the top (R80). -/
def Request.toWord (q : Request) : BitVec 40 :=
  BitVec.ofBool q.we ++ q.size ++ q.addr ++ q.wdata

/-- `addr[4:2]`, the word slot (R51). -/
def Request.slot (q : Request) : BitVec 3 := q.addr.extractLsb' 2 3

/-- `addr[1:0]`, which must be 0b00 (R51, R53). -/
def Request.lane (q : Request) : BitVec 2 := q.addr.extractLsb' 0 2

/-- A request as the engine keeps it once sampled: a read's WDATA is ignored entirely, so it is not
kept (R35). -/
def Request.sampled (q : Request) : Request := { q with wdata := if q.we then q.wdata else 0 }

/-- The one admitted SIZE, a word (R52, R82). -/
def wordSize : BitVec 2 := 0b10

/-- The cause code of each cause (R151). -/
def AccessCause.code : AccessCause → BitVec 3
  | .badSize => 1
  | .misaligned => 2
  | .unmapped => 3
  | .writeRo => 4
  | .readWo => 5
  | .reservedBits => 6

/-- cause(q): the first check the request fails, in the order of R152; `none` stands for code 0. It
reads the request only. -/
def cause (q : Request) : Option AccessCause :=
  if q.size ≠ wordSize then some .badSize
  else if q.lane ≠ 0 then some .misaligned
  else if q.slot = 7 then some .unmapped
  else if q.we = true ∧ (q.slot = 0 ∨ q.slot = 5 ∨ q.slot = 6) then some .writeRo
  else if q.we = false ∧ (q.slot = 1 ∨ q.slot = 3 ∨ q.slot = 4) then some .readWo
  else if q.we = true ∧ (q.slot = 1 ∨ q.slot = 2) ∧ q.wdata.extractLsb' 1 31 ≠ 0 then
    some .reservedBits
  else if q.we = true ∧ q.slot = 3 ∧ q.wdata.extractLsb' 8 24 ≠ 0 then some .reservedBits
  else none

/-- cause(q) as R152 writes it: a 3-bit number, 0 for a legal request. -/
def causeCode (q : Request) : BitVec 3 :=
  match cause q with
  | some c => c.code
  | none => 0

/-- The case analysis of R86 over (we, addr[4:2]), with the operand fields of R84. -/
def selected (q : Request) : Option Instr :=
  match q.we, q.slot.toNat with
  | false, 0 => some .rdId
  | true, 1 => some (.wrCtrl (q.wdata.getLsbD 0))
  | false, 2 => some .rdStatus
  | true, 2 => some (.wrStatus (q.wdata.getLsbD 0))
  | true, 3 => some (.wrData8 (q.wdata.extractLsb' 0 8))
  | true, 4 => some (.wrData32 q.wdata)
  | false, 5 => some .rdResult
  | false, 6 => some .rdCount
  | _, _ => none

/-- The decoder: total on every request, refusing by the name of the cause (R86, R87). The last arm
is never reached: a request with no cause selects a row (R86). -/
def decode (q : Request) : Except AccessCause Instr :=
  match cause q, selected q with
  | some c, _ => .error c
  | none, some i => .ok i
  | none, none => .error .unmapped

/-- The decoder on request words: total on every 40-bit word (R80, R89). -/
def decodeWord (word : BitVec 40) : Except AccessCause Instr := decode (Request.ofWord word)

/-- The bits a table row is asked with, as a request word: the bits above `nbits` are 0. -/
def tableWord (nbits w : Nat) : Nat := w % 2 ^ nbits

/-- The instruction the decoder reads from an opcode-table word of `nbits` bits. There is no format
but the 40-bit one (R80), so a number of more bits is no request word. -/
def decodeTableWord (nbits w : Nat) : Option Instr :=
  if tableWord nbits w < 2 ^ 40 then (decodeWord (BitVec.ofNat 40 (tableWord nbits w))).toOption
  else none

/-! The opcode map as data (R81). -/

/-- The kind of an instruction. -/
def Instr.kind : Instr → Kind
  | .rdId => .rdId
  | .wrCtrl _ => .wrCtrl
  | .rdStatus => .rdStatus
  | .wrStatus _ => .wrStatus
  | .wrData8 _ => .wrData8
  | .wrData32 _ => .wrData32
  | .rdResult => .rdResult
  | .rdCount => .rdCount

/-- One row of the opcode map: a word selects it when (word AND mask) = match (R81). -/
structure Row where
  kind : Kind
  pattern : BitVec 40
  mask : BitVec 40
  deriving DecidableEq, Repr

/-- A request word selects a row (R81). -/
def Row.selects (r : Row) (word : BitVec 40) : Bool := word &&& r.mask == r.pattern

/-- The row of each kind: the match and mask columns of R81. -/
def rowOf : Kind → Row
  | .rdId => ⟨.rdId, 0x4000000000, 0xFF00000000⟩
  | .wrCtrl => ⟨.wrCtrl, 0xC400000000, 0xFFFFFFFFFE⟩
  | .rdStatus => ⟨.rdStatus, 0x4800000000, 0xFF00000000⟩
  | .wrStatus => ⟨.wrStatus, 0xC800000000, 0xFFFFFFFFFE⟩
  | .wrData8 => ⟨.wrData8, 0xCC00000000, 0xFFFFFFFF00⟩
  | .wrData32 => ⟨.wrData32, 0xD000000000, 0xFF00000000⟩
  | .rdResult => ⟨.rdResult, 0x5400000000, 0xFF00000000⟩
  | .rdCount => ⟨.rdCount, 0x5800000000, 0xFF00000000⟩

/-- The eight rows of R81, in the table's order. -/
def opcodeTable : List Row :=
  [rowOf .rdId, rowOf .wrCtrl, rowOf .rdStatus, rowOf .wrStatus, rowOf .wrData8, rowOf .wrData32,
   rowOf .rdResult, rowOf .rdCount]

/-! The encoder. -/

/-- Each register's offset in the window (R30). -/
def Reg.offset : Reg → BitVec 5
  | .id => 0x00
  | .ctrl => 0x04
  | .status => 0x08
  | .data8 => 0x0C
  | .data32 => 0x10
  | .result => 0x14
  | .count => 0x18

/-- A legal-size read request of a register; WDATA is emitted as 0 (R90). -/
def readRequest (r : Reg) : Request := ⟨false, wordSize, r.offset, 0⟩

/-- A legal-size write request of a register (R90). -/
def writeRequest (r : Reg) (v : Word) : Request := ⟨true, wordSize, r.offset, v⟩

/-- A 1-bit operand as a word: the bit at [0], zeros above it (R84). -/
def bitWord (b : Bool) : Word := (BitVec.ofBool b).setWidth 32

/-- The request that carries a transaction (R81, R84). -/
def Instr.toRequest : Instr → Request
  | .rdId => readRequest .id
  | .wrCtrl i => writeRequest .ctrl (bitWord i)
  | .rdStatus => readRequest .status
  | .wrStatus c => writeRequest .status (bitWord c)
  | .wrData8 b => writeRequest .data8 (b.setWidth 32)
  | .wrData32 w => writeRequest .data32 w
  | .rdResult => readRequest .result
  | .rdCount => readRequest .count

/-- The request word of a transaction (R80, R81). -/
def encode (i : Instr) : BitVec 40 := i.toRequest.toWord

end Sys2Proof
end

