-- ==== Sys2Proof/Config.lean ====
section
/-! DEFINITION. What is fixed for one engine: the hardwired constants (R7, R8, R26, R100), the OPEN
parameters of R7, R50 and R187, and the free values of 93_implementation_defined.md U1 and U2. -/

namespace Sys2Proof.Config

/-- BASIS, the offset basis: the first accumulator value (R7, R100). -/
def basis : Word := 0x811c9dc5

/-- PRIME, the multiplier of the absorb step (R7, R100). -/
def prime : Word := 0x01000193

/-- The multiplicative inverse of PRIME modulo 2^32; it serves reasoning only, the engine has no
inverse operation (R106). -/
def primeInv : Word := 0x359c449b

/-- The ID register's hardwired value, "FNV1" (R26). -/
def idValue : Word := 0x464E5631

/-- The CAUSE value that is reserved and never produced (R151, U7). -/
def reservedCause : BitVec 3 := 7#3

/-! OPEN parameters (R7, R187, R193, U3). A latency is one more than an unconstrained number, so all
that can be proved of it is `1 ≤ LAT` and that it is finite. Each parameter is one constant for
every State, so two engines have the same latencies and the same ENGINE_BASE: the spec leaves them open
per engine (R7, D29), and this is the model's DESIGN CHOICE (log entry 22). -/

/-- LAT_RD less one. OPEN (D21). -/
opaque latRdExtra : Nat
/-- LAT_CTRL less one. OPEN (D21). -/
opaque latCtrlExtra : Nat
/-- LAT_STATUS less one. OPEN (D21). -/
opaque latStatusExtra : Nat
/-- LAT_DATA8 less one. OPEN (D21). -/
opaque latData8Extra : Nat
/-- LAT_DATA32 less one. OPEN (D21). -/
opaque latData32Extra : Nat
/-- A refused request's latency less one: R187 ties it to none of the LAT_K, so it may depend on the
request word as the engine keeps it (a read's without its WDATA, R35) and on when it is accepted (the
draw number). OPEN (U3). -/
opaque latRefusedExtra : BitVec 40 → Nat → Nat

/-- LAT_RD: the latency of all four reads (R187). -/
def latRd : Nat := latRdExtra + 1
/-- LAT_CTRL: the latency of WR_CTRL, whatever i is (R187). -/
def latCtrl : Nat := latCtrlExtra + 1
/-- LAT_STATUS: the latency of WR_STATUS, whatever c is (R187). -/
def latStatus : Nat := latStatusExtra + 1
/-- LAT_DATA8: the latency of WR_DATA8 (R187). -/
def latData8 : Nat := latData8Extra + 1
/-- LAT_DATA32: the latency of WR_DATA32 (R187). -/
def latData32 : Nat := latData32Extra + 1
/-- The latency of a refused request: "some finite latency of at least 1" (R187). -/
def latRefused (word : BitVec 40) (draw : Nat) : Nat := latRefusedExtra word draw + 1

/-- ENGINE_BASE: where the platform puts the 32-byte window in the host's address map. OPEN (R50, U6); one
constant for every engine (log entry 22). -/
opaque engineBase : Nat

/-! Free values: nothing constrains them. Each is applied to the draw number of the state, so that
two occasions need not give the same value. Two engines at one draw number give the same value, the
model's DESIGN CHOICE (log entry 22). -/

/-- `rsp_err` while `rsp_valid` = 0 (R32, U1). -/
opaque idleErr : Nat → Bool
/-- `rsp_rdata` while `rsp_valid` = 0 (R32, U1). -/
opaque idleRdata : Nat → Word
/-- `req_ready` before the first reset (R181, U2). -/
opaque powerUpReady : Nat → Bool
/-- `rsp_valid` before the first reset (R181, U2). -/
opaque powerUpValid : Nat → Bool
/-- ACC before the first reset (R181, U2). -/
opaque powerUpAcc : Nat → Word
/-- COUNT before the first reset (R181, U2). -/
opaque powerUpCount : Nat → Word
/-- ERR before the first reset (R181, U2). -/
opaque powerUpErr : Nat → Bool
/-- CAUSE before the first reset (R181, U2). -/
opaque powerUpCause : Nat → BitVec 3
/-- OUTSTANDING before the first reset (R20, R181, U2). -/
opaque powerUpOutstanding : Nat → Bool
/-- The request word an OUTSTANDING of 1 stands for before the first reset (R181, U2). -/
opaque powerUpFlightWord : Nat → BitVec 40
/-- The edges left of that transaction's latency before the first reset (R181, U2). -/
opaque powerUpFlightWait : Nat → Nat

end Sys2Proof.Config
end

