-- ==== Sys2Proof/Machine/Datapath.lean ====
section
/-! DEFINITION. The FNV-1a datapath: pure functions (40_hash_commands.md section 1). -/

namespace Sys2Proof.Machine

/-- `zext_32` of a byte (R9, R104): the XOR changes bits [7:0] only. -/
def zext32 (b : Byte) : Word := b.setWidth 32

/-- The absorb step: XOR the byte in, then multiply by PRIME mod 2^32 (R101, R103). PRIME stands first so
that the kernel, comparing open terms, is stuck on the accumulator and never counts up to PRIME. -/
def fnvStep (acc : Word) (b : Byte) : Word := Config.prime * (acc ^^^ zext32 b)

/-- The step folded over bytes in input order, from a given accumulator (R102, R107). -/
def fnvFold (acc : Word) (bs : List Byte) : Word := bs.foldl fnvStep acc

/-- The hash of a byte sequence of any length (R102, R113). -/
def fnvHash (bs : List Byte) : Word := fnvFold Config.basis bs

/-- The shift-and-add form of the multiplication by PRIME (R105). -/
def shiftAdd (x : Word) : Word := (x <<< 24) + (x <<< 8) + (x <<< 7) + (x <<< 4) + (x <<< 1) + x

/-- The absorb step undone (R106): for reasoning only, the engine has no such operation. -/
def fnvUnstep (acc : Word) (b : Byte) : Word := (Config.primeInv * acc) ^^^ zext32 b

end Sys2Proof.Machine
end

