-- ==== Sys2Proof/Machine/State.lean ====
section
/-! DEFINITION. The engine's state as plain data (R20, R31, R33), the ends of a step, and the state
right after reset (R30, R182). -/

namespace Sys2Proof.Machine

/-- A response r = (err, rdata) (R11, R83). -/
structure Response where
  /-- `rsp_err`: 1 = the transaction was refused. -/
  err : Bool
  /-- `rsp_rdata`: 0 for writes and for error responses. -/
  rdata : Word
  deriving DecidableEq, Repr

/-- Where the engine stands with respect to reset (R180, R181). -/
inductive Phase where
  /-- Before the first reset after power-up, or after loss of clock or power: every state element and
  output has an unspecified value (R164, R181, U2). -/
  | unreset
  /-- In reset: from the edge that samples `rst_n` = 0 up to the first later edge that samples 1. -/
  | inReset
  /-- Reset released: requests can be accepted. -/
  | running
  deriving DecidableEq, Repr

/-- An accepted transaction whose response has not started: the request as sampled at the acceptance
edge, a read's without its WDATA (R35), and how many edges pass before the one that starts its response cycle (R32, R187). -/
structure Flight where
  request : Request
  wait : Nat
  deriving DecidableEq, Repr

/-- The input ports as sampled at one rising edge of `clk` (R31, R35). -/
structure PinSample where
  rstN : Bool
  reqValid : Bool
  request : Request
  deriving DecidableEq, Repr

/-- What the outside world does next: a rising edge of `clk` with its sampled inputs, or the loss of
clock or power (R164). -/
inductive Input where
  | edge (pins : PinSample)
  | powerLoss
  deriving DecidableEq, Repr

/-- An edge at which nothing is asked: reset not asserted and no request presented. The request
fields are not looked at (R35). -/
def PinSample.idle : PinSample := ⟨true, false, ⟨false, 0, 0, 0⟩⟩

/-- Why the machine stops. -/
inductive Fault where
  /-- A request is presented to, or performed on, an engine that has not been reset since power-up:
  raised by the rising edge and by every transaction. The spec treats it as a fault (U2, D14). Safe:
  no value is read that the spec does not give. -/
  | usedBeforeReset
  /-- CAUSE holds the reserved code 7: raised by the rising edge and by every transaction. The spec
  treats it as a fault (U7). Safe: the state is unreachable. -/
  | reservedCause
  deriving DecidableEq, Repr

/-- Why an instruction has no meaning in the model. -/
inductive Refusal where
  /-- Raised by `exec` for an instruction whose meaning is not written: none is. Safe. -/
  | notModelled (mnemonic : String)
  deriving DecidableEq, Repr

/-- The engine's state. `acc`, `count`, `err` and `cause` are the four elements of R20; `outstanding`
holds OUTSTANDING (its bit is `isSome`) with the transaction it stands for; `response` and `phase`
are what the output ports of R31 to R33 and R181 show; `inputs` and `draws` are the model's own. -/
structure State where
  /-- reg.ACC: the FNV-1a accumulator (R22). -/
  acc : Word
  /-- reg.COUNT: bytes absorbed since the last INIT or reset, mod 2^32 (R23). -/
  count : Word
  /-- reg.ERR: the sticky error flag, STATUS[0] (R24). -/
  err : Bool
  /-- reg.CAUSE: the cause of the first error since ERR was last cleared, STATUS[3:1] (R24). -/
  cause : BitVec 3
  /-- OUTSTANDING: `some` from the edge that accepts a request to the edge that starts its response
  cycle (R33). -/
  outstanding : Option Flight
  /-- The response presented in this cycle, if it is a response cycle (R32). -/
  response : Option Response
  /-- Whether the engine was reset, is in reset, or runs (R180, R181). -/
  phase : Phase
  /-- The model's own: what the outside world does at the coming steps, the next one first. -/
  inputs : List Input
  /-- The model's own: how many inputs were taken, the number free values are drawn with. -/
  draws : Nat
  deriving DecidableEq, Repr

/-- The engine right after reset: the values of R30 and R182, `rst_n` released, so that a request can
be accepted at the next edge (R181). No input is scheduled. -/
def State.reset : State where
  acc := Config.basis
  count := 0
  err := false
  cause := 0
  outstanding := none
  response := none
  phase := .running
  inputs := []
  draws := 0

end Sys2Proof.Machine
end

