-- ==== Sys2Proof/Machine/Flags.lean ====
section
/-! DEFINITION. The STATUS register: its read value (R24, R131), first-error capture (R154), and the
write-1-to-clear (R134). The engine has no other flag (R25). -/

namespace Sys2Proof.Machine

/-- The read value of STATUS: `zext_32({CAUSE, ERR})` (R24, R131). -/
def statusWord (err : Bool) (cause : BitVec 3) : Word := (cause ++ BitVec.ofBool err).setWidth 32

/-- Log an error: the first error since the last clear is kept (R154). -/
def State.logError (s : State) (code : BitVec 3) : State :=
  if s.err then s else { s with err := true, cause := code }

/-- Clear the error log: ERR and CAUSE to 0 (R134). -/
def State.clearLog (s : State) : State := { s with err := false, cause := 0 }

end Sys2Proof.Machine
end

