-- ==== Sys2Proof/Machine/Operands.lean ====
section
/-! DEFINITION. Operand assembly (R84) and the byte order of DATA32 (R54, R110, R191). The fields i, c,
b and w themselves are taken from WDATA by the decoder. -/

namespace Sys2Proof.Machine

/-- B0 = w[31:24], absorbed first (R28, R84). -/
def byte0 (w : Word) : Byte := w.extractLsb' 24 8

/-- B1 = w[23:16], absorbed second (R28, R84). -/
def byte1 (w : Word) : Byte := w.extractLsb' 16 8

/-- B2 = w[15:8], absorbed third (R28, R84). -/
def byte2 (w : Word) : Byte := w.extractLsb' 8 8

/-- B3 = w[7:0], absorbed last (R28, R84). -/
def byte3 (w : Word) : Byte := w.extractLsb' 0 8

/-- The bytes of a DATA32 word in the order they are absorbed: most significant first (R54, R110). -/
def dataBytes (w : Word) : List Byte := [byte0 w, byte1 w, byte2 w, byte3 w]

/-- The word of four bytes, the first in bits [31:24] (R64, R91, R191). -/
def packBytes (b0 b1 b2 b3 : Byte) : Word := b0 ++ b1 ++ b2 ++ b3

/-- The bytes a transaction absorbs when it is not refused (R109, R110). -/
def absorbedBytes : Instr → List Byte
  | .rdId => []
  | .wrCtrl _ => []
  | .rdStatus => []
  | .wrStatus _ => []
  | .wrData8 b => [b]
  | .wrData32 w => dataBytes w
  | .rdResult => []
  | .rdCount => []

end Sys2Proof.Machine
end

