-- ==== Sys2Proof/Machine/Ops.lean ====
section
/-! DEFINITION. The named operations the meanings and the step are made of: answering a transaction,
INIT and absorb, the access error (the engine's one exception), reset, acceptance, the input
schedule, and the output ports. -/

namespace Sys2Proof.Machine

/-! Sequencing, and answering a transaction. -/

/-- Go on from a next state; a fault or a refusal ends it there. -/
def andThen {α β : Type} (o : Host.Outcome α Fault Refusal)
    (f : α → Host.Outcome β Fault Refusal) : Host.Outcome β Fault Refusal :=
  match o with
  | .next a => f a
  | .fault e => .fault e
  | .refused r => .refused r

/-- `respond(err, rdata)`: end the transaction with that response (R11). Its response cycle starts,
which clears OUTSTANDING (R33). -/
def State.respond (s : State) (err : Bool) (rdata : Word) : State :=
  { s with response := some ⟨err, rdata⟩, outstanding := none }

/-- Why no transaction can be performed in this state, if so: the state elements are unspecified
before the first reset (U2), and CAUSE = 7 is a reserved state (U7). -/
def State.serviceFault (s : State) : Option Fault :=
  if s.phase = .unreset then some .usedBeforeReset
  else if s.cause = Config.reservedCause then some .reservedCause
  else none

/-- Perform a transaction on `s` with the outcome state `t`, where `s` can perform one. -/
def serve (s t : State) : Host.Outcome State Fault Refusal :=
  match s.serviceFault with
  | some f => .fault f
  | none => .next t

/-- A successful read answers the register's value (R83). -/
def readReg (s : State) (value : Word) : Host.Outcome State Fault Refusal :=
  serve s (s.respond false value)

/-- A successful write moves the registers from `s` to `t` and answers 0 (R83). -/
def writeReg (s t : State) : Host.Outcome State Fault Refusal := serve s (t.respond false 0)

/-! The hash commands' effects. -/

/-- INIT: ACC to BASIS and COUNT to 0; the error log is left alone (R108). -/
def State.initialise (s : State) : State := { s with acc := Config.basis, count := 0 }

/-- Absorb bytes in order: fold the step into ACC, and count them mod 2^32 (R101, R109, R110). -/
def State.absorb (s : State) (bs : List Byte) : State :=
  { s with acc := fnvFold s.acc bs, count := s.count + BitVec.ofNat 32 bs.length }

/-! The access error: the engine's one exception. It transfers no control (R150), and nothing is
returned from (R156); the return's counterpart, clearing the log, is `State.clearLog`. -/

/-- `raise AccessError(c)`: log the error, answer err = 1 with rdata = 0, change nothing else (R153). -/
def accessError (c : AccessCause) (s : State) : Host.Outcome State Fault Refusal :=
  serve s ((s.logError c.code).respond true 0)

/-! Reset and power. -/

/-- A rising edge with `rst_n` = 0: every state element takes its reset value, an outstanding
transaction is aborted, and no response is presented (R181, R182, R183). -/
def State.resetEdge (s : State) : State :=
  { s with acc := Config.basis, count := 0, err := false, cause := 0, outstanding := none,
           response := none, phase := .inReset }

/-- The first edge with `rst_n` = 1 after reset: the engine leaves reset and accepts nothing at this
edge (R180, R181). -/
def State.releaseReset (s : State) : State := { s with response := none, phase := .running }

/-- OUTSTANDING, and the transaction it stands for, before the first reset: free values (R181, U2). -/
def powerUpFlight (draw : Nat) : Option Flight :=
  if Config.powerUpOutstanding draw then
    some ⟨Request.ofWord (Config.powerUpFlightWord draw), Config.powerUpFlightWait draw⟩
  else none

/-- Loss of clock or power: the state is lost, and each state element, OUTSTANDING included, holds a
free value until the next reset (R164, R181, U2). -/
def State.losePower (s : State) : State :=
  { s with acc := Config.powerUpAcc s.draws, count := Config.powerUpCount s.draws,
           err := Config.powerUpErr s.draws, cause := Config.powerUpCause s.draws,
           outstanding := powerUpFlight s.draws, response := none, phase := .unreset }

/-- The engine at power-up, before its first reset (R181, R186). -/
def State.powerUp : State := State.reset.losePower

/-! Acceptance and waiting. -/

/-- The response latency of each transaction kind (R7, R187). -/
def latency : Instr → Nat
  | .rdId => Config.latRd
  | .wrCtrl _ => Config.latCtrl
  | .rdStatus => Config.latRd
  | .wrStatus _ => Config.latStatus
  | .wrData8 _ => Config.latData8
  | .wrData32 _ => Config.latData32
  | .rdResult => Config.latRd
  | .rdCount => Config.latRd

/-- How many edges after its acceptance a request's response cycle starts (R32, R187). It does not depend
on a read's WDATA (R35). -/
def responseDelay (q : Request) (draw : Nat) : Nat :=
  match decode q with
  | .ok i => latency i
  | .error _ => Config.latRefused q.sampled.toWord draw

/-- Accept a request: OUTSTANDING is set and the request fields are sampled (R32, R33, R35). This edge
also ends the response cycle before it. -/
def State.accept (s : State) (q : Request) : State :=
  { s with outstanding := some ⟨q.sampled, responseDelay q s.draws - 1⟩, response := none }

/-- An edge at which no request is accepted and no response cycle starts: a response cycle, if there
was one, ends (R32). -/
def State.idleEdge (s : State) : State := { s with response := none }

/-- An edge inside the latency of an outstanding transaction: `n` edges remain before the one that
starts its response cycle (R32). -/
def State.waitEdge (s : State) (q : Request) (n : Nat) : State :=
  { s with outstanding := some ⟨q, n⟩, response := none }

/-! The input schedule. -/

/-- What happens next outside the engine. Past the end of the schedule the clock runs on with nothing
asked. -/
def State.nextInput (s : State) : Input :=
  match s.inputs with
  | [] => .edge .idle
  | a :: _ => a

/-- The state after its next input is taken off the schedule. -/
def State.taken (s : State) : State := { s with inputs := s.inputs.tail, draws := s.draws + 1 }

/-! The output ports (R31). -/

/-- `req_ready`: 1 exactly when the engine is not in reset and OUTSTANDING = 0 (R33, R181). -/
def State.reqReady (s : State) : Bool :=
  match s.phase with
  | .unreset => Config.powerUpReady s.draws
  | .inReset => false
  | .running => s.outstanding.isNone

/-- `rsp_valid`: 1 in a response cycle, 0 in reset (R32, R181). -/
def State.rspValid (s : State) : Bool :=
  match s.phase with
  | .unreset => Config.powerUpValid s.draws
  | .inReset => false
  | .running => s.response.isSome

/-- `rsp_err`: the response's err in a response cycle, else a free value (R32, U1). -/
def State.rspErr (s : State) : Bool :=
  match s.phase, s.response with
  | .running, some r => r.err
  | _, _ => Config.idleErr s.draws

/-- `rsp_rdata`: the response's rdata in a response cycle, else a free value (R32, U1). -/
def State.rspRdata (s : State) : Word :=
  match s.phase, s.response with
  | .running, some r => r.rdata
  | _, _ => Config.idleRdata s.draws

/-- The 33-bit response word: ERR above RDATA (R83). -/
def Response.toWord (r : Response) : BitVec 33 := BitVec.ofBool r.err ++ r.rdata

end Sys2Proof.Machine
end

