-- ==== Sys2Proof/Machine/HashCommands.lean ====
section
/-! DEFINITION. The meanings of the hash commands WR_CTRL, WR_DATA8 and WR_DATA32
(40_hash_commands.md section 2). A legal request never errors (R150): the refusals listed in these
rules belong to other request words, which the decoder turns away. -/

namespace Sys2Proof.Machine

/-- WR_CTRL: INIT if i = 1, a no-op if i = 0 (R88, R108). -/
def execWrCtrl (i : Bool) (s : State) : Host.Outcome State Fault Refusal :=
  writeReg s (if i then s.initialise else s)

/-- WR_DATA8: absorb one byte (R109). -/
def execWrData8 (b : Byte) (s : State) : Host.Outcome State Fault Refusal :=
  writeReg s (s.absorb [b])

/-- WR_DATA32: absorb four bytes, most significant first, indivisibly (R55, R110). -/
def execWrData32 (w : Word) (s : State) : Host.Outcome State Fault Refusal :=
  writeReg s (s.absorb (dataBytes w))

end Sys2Proof.Machine
end

