-- ==== Sys2Proof/Machine/RegisterAccess.lean ====
section
/-! DEFINITION. The meanings of RD_ID, RD_STATUS, RD_RESULT, RD_COUNT and WR_STATUS
(41_register_access.md section 1). -/

namespace Sys2Proof.Machine

/-- RD_ID: the identification constant (R26, R130). -/
def execRdId (s : State) : Host.Outcome State Fault Refusal := readReg s Config.idValue

/-- RD_STATUS: the error log, with no side effect (R131). -/
def execRdStatus (s : State) : Host.Outcome State Fault Refusal :=
  readReg s (statusWord s.err s.cause)

/-- RD_RESULT: the accumulator (R29, R132). -/
def execRdResult (s : State) : Host.Outcome State Fault Refusal := readReg s s.acc

/-- RD_COUNT: the byte counter (R133). -/
def execRdCount (s : State) : Host.Outcome State Fault Refusal := readReg s s.count

/-- WR_STATUS: clear the error log if c = 1, a no-op if c = 0 (R88, R134). -/
def execWrStatus (c : Bool) (s : State) : Host.Outcome State Fault Refusal :=
  writeReg s (if c then s.clearLog else s)

end Sys2Proof.Machine
end

