-- ==== Sys2Proof/Machine/Dispatch.lean ====
section
/-! DEFINITION. The dispatch: one arm per transaction kind (the case of R86). -/

namespace Sys2Proof.Machine

def exec (i : Instr) (s : State) : Host.Outcome State Fault Refusal :=
  match i with
  | .rdId => Sys2Proof.Machine.execRdId s
  | .wrCtrl i0 => Sys2Proof.Machine.execWrCtrl i0 s
  | .rdStatus => Sys2Proof.Machine.execRdStatus s
  | .wrStatus c => Sys2Proof.Machine.execWrStatus c s
  | .wrData8 b => Sys2Proof.Machine.execWrData8 b s
  | .wrData32 w => Sys2Proof.Machine.execWrData32 w s
  | .rdResult => Sys2Proof.Machine.execRdResult s
  | .rdCount => Sys2Proof.Machine.execRdCount s

end Sys2Proof.Machine
end

