-- ==== Sys2Proof/Machine/Handshake.lean ====
section
/-! DEFINITION. The whole transaction semantics `exec(s, q)` of R86, and what one rising edge of `clk`
does with it (R32, R33, R180 to R183, R187). -/

namespace Sys2Proof.Machine

/-- The engine's whole transaction semantics, `exec(s, q)` of R86: a legal request runs its row, any
other request raises the access error of its cause. -/
def perform (q : Request) (s : State) : Host.Outcome State Fault Refusal :=
  match decode q with
  | .ok i => exec i s
  | .error c => accessError c s

/-- A rising edge outside reset: the response cycle of an outstanding transaction starts once its
latency has passed, with its effect complete (R32, R33); a request presented while none is
outstanding is accepted (R32). -/
def runningEdge (pins : PinSample) (s : State) : Host.Outcome State Fault Refusal :=
  if s.cause = Config.reservedCause then .fault .reservedCause
  else
    match s.outstanding with
    | some ⟨q, 0⟩ => perform q s
    | some ⟨q, n + 1⟩ => .next (s.waitEdge q n)
    | none => .next (if pins.reqValid then s.accept pins.request else s.idleEdge)

/-- One rising edge of `clk`. Reset is sampled first (R180); an engine that was never reset cannot be
used (R181, U2). -/
def risingEdge (pins : PinSample) (s : State) : Host.Outcome State Fault Refusal :=
  if pins.rstN then
    match s.phase with
    | .unreset => if pins.reqValid then .fault .usedBeforeReset else .next s
    | .inReset => .next s.releaseReset
    | .running => runningEdge pins s
  else .next s.resetEdge

/-- What an input does. -/
def applyInput (a : Input) (s : State) : Host.Outcome State Fault Refusal :=
  match a with
  | .edge pins => risingEdge pins s
  | .powerLoss => .next s.losePower

end Sys2Proof.Machine
end

