-- ==== Sys2Proof/Machine/Step.lean ====
section
/-! DEFINITION. One step: the next input is taken and applied. The engine fetches nothing (R21); the
request a step performs is the outstanding one whose latency has passed. -/

namespace Sys2Proof.Machine

/-- One step of the machine: one rising edge of `clk`, or the loss of clock or power. -/
def step (s : State) : Host.Outcome State Fault Refusal := applyInput s.nextInput s.taken

/-- `s` with a request word placed where the next step performs it: accepted, its latency all but
passed, the engine out of reset, and an edge without reset first on the schedule. -/
def State.withFetchWord (s : State) (nbits w : Nat) : State :=
  { s with
    outstanding := some ⟨Request.ofWord (BitVec.ofNat 40 (tableWord nbits w)), 0⟩
    phase := .running
    inputs := .edge .idle :: s.inputs }

end Sys2Proof.Machine
end

