-- ==== Sys2Proof/Machine/Session.lean ====
section
/-! DEFINITION. Sequences of transactions on one engine: the total order of R57, the byte stream the
engine has absorbed since the last INIT (R23, R111, R190), hash calls (R111), and several hosts
(R57, R162, R190). -/

namespace Sys2Proof.Machine

/-- Requests performed in the order they are accepted, each on the state all earlier ones left; the
responses come in the same order (R32, R57). A fault ends the sequence. -/
def serveAll : List Request → State → Host.Outcome (State × List Response) Fault Refusal
  | [], s => .next (s, [])
  | q :: qs, s =>
    andThen (perform q s) fun t =>
      andThen (serveAll qs t) fun p => .next (p.1, t.response.toList ++ p.2)

/-- What one request does to the byte stream of the current hash: INIT empties it, an absorb extends
it, a refused request and every other transaction leave it (R101, R108, R153). -/
def streamStep (bs : List Byte) (q : Request) : List Byte :=
  match decode q with
  | .ok (.wrCtrl true) => []
  | .ok i => bs ++ absorbedBytes i
  | .error _ => bs

/-- The bytes absorbed since the last INIT, after `qs`, from a stream `bs` (R23, R190). -/
def streamAfter (bs : List Byte) (qs : List Request) : List Byte := qs.foldl streamStep bs

/-- An absorb transaction: WR_DATA8 or WR_DATA32 (R111). -/
def isAbsorb : Instr → Bool
  | .wrData8 _ => true
  | .wrData32 _ => true
  | .rdId => false
  | .wrCtrl _ => false
  | .rdStatus => false
  | .wrStatus _ => false
  | .rdResult => false
  | .rdCount => false

/-- The transactions of a hash call: INIT, the absorbs, RD_RESULT (R111). -/
def hashCall (absorbs : List Instr) : List Request :=
  Instr.toRequest (.wrCtrl true) :: absorbs.map Instr.toRequest ++ [Instr.toRequest .rdResult]

/-- The bytes a list of absorbs feeds, in order (R111). -/
def fedBytes (absorbs : List Instr) : List Byte := absorbs.flatMap absorbedBytes

/-! Several hosts on one engine. The engine sees only the requests; the tag says whose it is. -/

/-- A request as some host issued it (R57, R162). -/
structure Issued where
  host : Nat
  request : Request
  deriving DecidableEq, Repr

/-- The requests as the engine accepts them: it cannot tell hosts apart (R162). -/
def acceptedOrder (xs : List Issued) : List Request := xs.map Issued.request

/-- What one host issued, in its program order (R57). -/
def programOf (h : Nat) (xs : List Issued) : List Request :=
  (xs.filter (fun x => x.host == h)).map Issued.request

/-- An interleaving of the hosts' programs that keeps each host's own program order: R57 admits every
one of them (U5). -/
def Interleaves (programs : Nat → List Request) (xs : List Issued) : Prop :=
  ∀ h, programOf h xs = programs h

/-- A request that R190 forbids another host inside a hash call: a WR_CTRL or an absorb that the
engine does not refuse. -/
def disturbs (q : Request) : Bool :=
  match decode q with
  | .ok (.wrCtrl _) => true
  | .ok i => isAbsorb i
  | .error _ => false

/-- Exclusive use of the engine by host `h` over part of the order: no other host's WR_CTRL or absorb
is accepted in it (R190). -/
def exclusiveUse (h : Nat) (xs : List Issued) : Bool :=
  xs.all (fun x => x.host == h || !disturbs x.request)

end Sys2Proof.Machine
end

