-- ==== Sys2Proof/Machine/Container.lean ====
section
/-! DEFINITION. The host-side rules of the save container (20_memory.md section 3, R63 to R70, R165).
They bind the host; the engine knows no offsets (R5). A file is the list of its bytes. -/

namespace Sys2Proof.Machine

/-- 0x30C: where the checksum field stands, and the length of the hashed region (R64, R65). -/
def fieldOffset : Nat := 0x30C

/-- 0x310: the least length that holds the field (R66). -/
def minimumLength : Nat := 0x310

/-- 800: the canonical length (R63). -/
def canonicalLength : Nat := 800

/-- `MemRead(addr, n)` on the host's copy of the file (R12). A read that reaches past the end of the file
gives only the bytes there are, fewer than n: R12 is silent there, and this is the model's DESIGN CHOICE
(log entry 17). -/
def memRead (f : List Byte) (addr n : Nat) : List Byte := (f.drop addr).take n

/-- `MemWrite(addr, n, v)` with the n bytes `v`, inside the file (R12). R12 is silent on a write that reaches
past the end of the file: here the result is then longer, and bytes for an address past the end follow
the last byte, the model's DESIGN CHOICE (log entry 17). -/
def memWrite (f : List Byte) (addr : Nat) (v : List Byte) : List Byte :=
  f.take addr ++ v ++ f.drop (addr + v.length)

/-- `f[i]`, for an index inside the file. An index past its end reads 0, the model's DESIGN CHOICE (log entry
17); no verdict rests on it. -/
def fileByte (f : List Byte) (i : Nat) : Byte := f.getD i 0

/-- The big-endian word at an index (R64, R70). -/
def fileWord (f : List Byte) (i : Nat) : Word :=
  packBytes (fileByte f i) (fileByte f (i + 1)) (fileByte f (i + 2)) (fileByte f (i + 3))

/-- ChecksumField: the stored checksum (R64). -/
def storedField (f : List Byte) : Word := fileWord f fieldOffset

/-- HashedRegion: the bytes [0, 0x30C) in file order (R65). -/
def hashedRegion (f : List Byte) : List Byte := f.take fieldOffset

/-- The verdict on a file (R68). -/
inductive Verdict where
  | valid
  | invalid
  deriving DecidableEq, Repr

/-- Why the host reports no verdict. -/
inductive HostError where
  /-- TruncatedFileError: the file is shorter than 0x310 bytes (R66). -/
  | truncatedFile
  /-- The engine refused a request of the hash call (R165). -/
  | engineAccess
  deriving DecidableEq, Repr

/-- What the host reports of a file that is long enough. -/
structure Report where
  /-- SizeMismatchWarning: the length is not 800 (R67). -/
  sizeMismatch : Bool
  stored : Word
  expected : Word
  verdict : Verdict
  deriving DecidableEq, Repr

/-- The report once the expected checksum is known (R64, R67, R68). -/
def reportOf (f : List Byte) (expected : Word) : Report where
  sizeMismatch := f.length != canonicalLength
  stored := storedField f
  expected := expected
  verdict := if storedField f = expected then .valid else .invalid

/-- Verify a file, with the hash as a pure function (R63 to R68). The length is checked first (R66). -/
def verify (f : List Byte) : Except HostError Report :=
  if f.length < minimumLength then .error .truncatedFile
  else .ok (reportOf f (fnvHash (hashedRegion f)))

/-- The corrected copy of an invalid file: the field patched with the big-endian bytes of the expected
checksum, all else as it was (R69). -/
def correctedCopy (f : List Byte) : List Byte :=
  memWrite f fieldOffset (dataBytes (fnvHash (hashedRegion f)))

/-- The absorbs of the engine procedure: 195 WR_DATA32, the k-th with the big-endian word at 4k (R70). -/
def regionAbsorbs (f : List Byte) : List Instr :=
  (List.range 195).map (fun k => .wrData32 (fileWord f (4 * k)))

/-- The engine procedure: INIT, the absorbs, RD_RESULT, RD_COUNT (R70). -/
def checksumScript (f : List Byte) : List Request :=
  hashCall (regionAbsorbs f) ++ [Instr.toRequest .rdCount]

/-- The procedure's RD_RESULT response is the last but one (R70). -/
def resultResponse (rs : List Response) : Option Response := rs.reverse[1]?

/-- Verify a file with the engine: the length first, then the procedure of R70. A refused request
forbids a verdict (R165). `none` stands for an engine that faults. -/
def verifyOnEngine (f : List Byte) (s : State) : Option (Except HostError Report) :=
  if f.length < minimumLength then some (.error .truncatedFile)
  else
    match serveAll (checksumScript f) s with
    | .next (_, rs) =>
      if rs.any Response.err then some (.error .engineAccess)
      else (resultResponse rs).map (fun r => .ok (reportOf f r.rdata))
    | .fault _ => none
    | .refused _ => none

end Sys2Proof.Machine
end

