-- ==== Sys2Proof/Machine/Script.lean ====
section
/-! DEFINITION. The host's script language: the assembler (R90), the pseudo-instructions (R91), the
written form of a line, and where the platform puts the window (R50, R51). It binds the host; it has
no hardware meaning (D26). -/

namespace Sys2Proof.Machine

/-! The assembler (R90). -/

/-- The SIZE value of each size letter (R82, R90). -/
def sizeBits : SizeCode → BitVec 2
  | .byte => 0b00
  | .half => 0b01
  | .word => 0b10
  | .reserved => 0b11

/-- The request a statement stands for; the numbers are taken as in range (R90). -/
def stmtRequest : Stmt → Request
  | .rd r => readRequest r
  | .wr r imm => writeRequest r (BitVec.ofNat 32 imm)
  | .rdRaw sz off => ⟨false, sizeBits sz, BitVec.ofNat 5 off, 0⟩
  | .wrRaw sz off imm => ⟨true, sizeBits sz, BitVec.ofNat 5 off, BitVec.ofNat 32 imm⟩

/-- Assemble a statement, or refuse it with every reason there is (R90). -/
def assemble (s : Stmt) : Except (List AsmError) Request :=
  if s.wellFormed then .ok (stmtRequest s) else .error s.refusals

/-! The pseudo-instructions (R91). -/

/-- `absorb8 b` (R91). -/
def absorb8Stmt (b : Byte) : Stmt := .wr .data8 b.toNat

/-- `absorb32 b0, b1, b2, b3` (R91). -/
def absorb32Stmt (b0 b1 b2 b3 : Byte) : Stmt := .wr .data32 (packBytes b0 b1 b2 b3).toNat

/-- `absorb bs`: as many whole words as there are, then single bytes (R91). -/
def absorbStmts : List Byte → List Stmt
  | b0 :: b1 :: b2 :: b3 :: rest => absorb32Stmt b0 b1 b2 b3 :: absorbStmts rest
  | rest => rest.map absorb8Stmt

/-- The exact expansion of each pseudo-instruction (R91). -/
def expand : Pseudo → List Stmt
  | .init => [.wr .ctrl 0x00000001]
  | .nop => [.wr .ctrl 0x00000000]
  | .clrerr => [.wr .status 0x00000001]
  | .absorb8 b => [absorb8Stmt b]
  | .absorb32 b0 b1 b2 b3 => [absorb32Stmt b0 b1 b2 b3]
  | .absorb bs => absorbStmts bs
  | .hash bs => .wr .ctrl 0x00000001 :: absorbStmts bs ++ [.rd .result]

/-- The statements of a line's code. -/
def codeStmts : Code → List Stmt
  | .stmt s => [s]
  | .pseudo p => expand p

/-- Whether a response is what the line records (R90). R90 says only that `-> v` records the RDATA v; that it
also records ERR = 0, so that no error response agrees with it, is the model's DESIGN CHOICE (log entry
16). -/
def noteAgrees (n : Note) (r : Response) : Bool :=
  match n with
  | .none => true
  | .reads v => !r.err && r.rdata.toNat == v
  | .err => r.err

/-! The written form of a line (R90, R91, G2). -/

/-- The ASCII codes of a string operand's characters (R91, G2). -/
def asciiBytes (cs : List Char) : List Byte := cs.map (fun c => BitVec.ofNat 8 c.toNat)

/-- The value of a digit, in bases up to 16. -/
def digitValue (c : Char) : Option Nat :=
  let n := c.toNat
  if 48 ≤ n ∧ n ≤ 57 then some (n - 48)
  else if 97 ≤ n ∧ n ≤ 102 then some (n - 87)
  else if 65 ≤ n ∧ n ≤ 70 then some (n - 55)
  else none

/-- Digits of one base read from the left. -/
def digitsValue (base : Nat) : Nat → List Char → Option Nat
  | acc, [] => some acc
  | acc, c :: cs =>
    match digitValue c with
    | some d => if d < base then digitsValue base (acc * base + d) cs else none
    | none => none

/-- An unsigned number, in decimal or with a 0x prefix (R90). Leading zeros and hexadecimal digits of either
case are taken, an upper-case 0X is not: the model's DESIGN CHOICE (log entry 16). -/
def parseNumber : List Char → Option Nat
  | [] => none
  | ['0', 'x'] => none
  | '0' :: 'x' :: ds => digitsValue 16 0 ds
  | ds => digitsValue 10 0 ds

/-- A byte operand: a number from 0 to 255 (R91). -/
def parseByte (cs : List Char) : Option Byte :=
  match parseNumber cs with
  | some n => if n < 256 then some (BitVec.ofNat 8 n) else none
  | none => none

/-- A register's name, in upper case (R90). -/
def parseReg (cs : List Char) : Option Reg :=
  if cs = ['I', 'D'] then some .id
  else if cs = ['C', 'T', 'R', 'L'] then some .ctrl
  else if cs = ['S', 'T', 'A', 'T', 'U', 'S'] then some .status
  else if cs = ['D', 'A', 'T', 'A', '8'] then some .data8
  else if cs = ['D', 'A', 'T', 'A', '3', '2'] then some .data32
  else if cs = ['R', 'E', 'S', 'U', 'L', 'T'] then some .result
  else if cs = ['C', 'O', 'U', 'N', 'T'] then some .count
  else none

/-- A size letter (R90). -/
def parseSize (cs : List Char) : Option SizeCode :=
  if cs = ['b'] then some .byte
  else if cs = ['h'] then some .half
  else if cs = ['w'] then some .word
  else if cs = ['r'] then some .reserved
  else none

/-- The characters that part the words of a line. -/
def isSeparator (c : Char) : Bool := c == ' ' || c == ','

/-- Put a word in front unless it is empty. -/
def consWord (w : List Char) (ws : List (List Char)) : List (List Char) :=
  if w.isEmpty then ws else w :: ws

/-- The words of a text; `cur` is the word being read. -/
def wordsFrom : List Char → List Char → List (List Char)
  | cur, [] => consWord cur []
  | cur, c :: cs =>
    if isSeparator c then consWord cur (wordsFrom [] cs) else wordsFrom (cur ++ [c]) cs

/-- The words of a text, parted by spaces and commas, of which any number part alike: the model's DESIGN
CHOICE (log entry 16). -/
def wordsOf (cs : List Char) : List (List Char) := wordsFrom [] cs

/-- The text up to the first `;` outside quotes, and the text after it. -/
def cutComment : Bool → List Char → List Char × List Char
  | _, [] => ([], [])
  | quoted, c :: cs =>
    if c = ';' ∧ quoted = false then ([], cs)
    else
      let rest := cutComment (if c = '"' then !quoted else quoted) cs
      (c :: rest.1, rest.2)

/-- The characters of a quoted string that is all the text but for spaces around it. -/
def quotedText (cs : List Char) : Option (List Char) :=
  match cs.dropWhile (fun c => c == ' ') with
  | '"' :: rest =>
    let inside := rest.takeWhile (fun c => c != '"')
    match rest.drop inside.length with
    | '"' :: tail => if tail.all (fun c => c == ' ') then some inside else none
    | _ => none
  | _ => none

/-- A list of operands, all of which must parse. -/
def parseAll {α : Type} (f : List Char → Option α) : List (List Char) → Option (List α)
  | [] => some []
  | w :: ws =>
    match f w, parseAll f ws with
    | some x, some xs => some (x :: xs)
    | _, _ => none

/-- The operand of `absorb` and `hash`: a quoted string of ASCII characters or a list of byte values
(R91, G2). -/
def parseBytes (cs : List Char) : Option (List Byte) :=
  match quotedText cs with
  | some str => if str.all (fun c => c.toNat < 128) then some (asciiBytes str) else none
  | none => parseAll parseByte (wordsOf cs)

/-- The code of a line from its words and, for a string operand, the text after the first word. -/
def parseCode (cs : List Char) : Option Code :=
  let body := cs.dropWhile (fun c => c == ' ')
  let tail := body.dropWhile (fun c => c != ' ')
  match wordsOf (body.takeWhile (fun c => c != ' ')) with
  | [['r', 'd']] =>
    match wordsOf tail with
    | [r] => (parseReg r).map (fun r => .stmt (.rd r))
    | _ => none
  | [['w', 'r']] =>
    match wordsOf tail with
    | [r, v] =>
      match parseReg r, parseNumber v with
      | some r, some v => some (.stmt (.wr r v))
      | _, _ => none
    | _ => none
  | [['r', 'd', '.', 'r', 'a', 'w']] =>
    match wordsOf tail with
    | [sz, off] =>
      match parseSize sz, parseNumber off with
      | some sz, some off => some (.stmt (.rdRaw sz off))
      | _, _ => none
    | _ => none
  | [['w', 'r', '.', 'r', 'a', 'w']] =>
    match wordsOf tail with
    | [sz, off, v] =>
      match parseSize sz, parseNumber off, parseNumber v with
      | some sz, some off, some v => some (.stmt (.wrRaw sz off v))
      | _, _, _ => none
    | _ => none
  | [['i', 'n', 'i', 't']] => if (wordsOf tail).isEmpty then some (.pseudo .init) else none
  | [['n', 'o', 'p']] => if (wordsOf tail).isEmpty then some (.pseudo .nop) else none
  | [['c', 'l', 'r', 'e', 'r', 'r']] =>
    if (wordsOf tail).isEmpty then some (.pseudo .clrerr) else none
  | [['a', 'b', 's', 'o', 'r', 'b', '8']] =>
    match parseAll parseByte (wordsOf tail) with
    | some [b] => some (.pseudo (.absorb8 b))
    | _ => none
  | [['a', 'b', 's', 'o', 'r', 'b', '3', '2']] =>
    match parseAll parseByte (wordsOf tail) with
    | some [b0, b1, b2, b3] => some (.pseudo (.absorb32 b0 b1 b2 b3))
    | _ => none
  | [['a', 'b', 's', 'o', 'r', 'b']] => (parseBytes tail).map (fun bs => .pseudo (.absorb bs))
  | [['h', 'a', 's', 'h']] => (parseBytes tail).map (fun bs => .pseudo (.hash bs))
  | _ => none

/-- The record of a response after `;`: `-> v`, `err`, or neither (R90). Where R90 is silent, the model's
DESIGN CHOICE (log entry 16): a v that is no number (P4 of 95_test_vectors.md writes `-> expected`) gives
no record and the line is kept, words after v or `err` are ignored, and any other text is a comment. -/
def parseNote (cs : List Char) : Note :=
  match wordsOf cs with
  | ['-', '>'] :: v :: _ =>
    match parseNumber v with
    | some n => .reads n
    | none => .none
  | ['e', 'r', 'r'] :: _ => .err
  | _ => .none

/-- One line of a script (R90, R91). A line whose code cannot be read, or that has none, is refused; a note
never refuses a line (log entry 16). -/
def parseLine (cs : List Char) : Option Line :=
  let parts := cutComment false cs
  match parseCode parts.1 with
  | some c => some ⟨c, parseNote parts.2⟩
  | none => none

/-! The window in the host's address map. -/

/-- The host address of a register (R50). -/
def hostAddress (r : Reg) : Nat := Config.engineBase + r.offset.toNat

/-- The offset the interconnect shows the engine for a host address, if it lies in the window. Outside
the window the spec makes no claim (R51, D31, U12). -/
def windowOffset (a : Nat) : Option (BitVec 5) :=
  if Config.engineBase ≤ a ∧ a < Config.engineBase + 32 then
    some (BitVec.ofNat 5 (a - Config.engineBase))
  else none

end Sys2Proof.Machine
end

