-- ==== Sys2Proof/Safety.lean ====
section
/-! DEFINITION. The terms claims use: when the engine can perform transactions, the invariant of its
states, runs of several steps, and runs a host may trust (R192). -/

namespace Sys2Proof.Machine

/-- The engine can perform a transaction: it was reset since power-up (R181, U2) and CAUSE is a legal
value (R24, U7). -/
abbrev State.InService (s : State) : Prop := s.phase ≠ .unreset ∧ s.cause ≠ 7#3

/-- The next input is a rising edge at which reset is not asserted. -/
def State.NextEdgeKeepsRunning (s : State) : Prop :=
  ∃ pins : PinSample, s.nextInput = .edge pins ∧ pins.rstN = true

/-- The error log is one that R24 and R131 allow: CAUSE is 0 exactly when ERR = 0, and never 7. -/
abbrev State.LogLegal (s : State) : Prop := (s.cause = 0#3 ↔ s.err = false) ∧ s.cause ≠ 7#3

/-- In reset, every element holds its reset value and no response is presented (R181, R182). -/
abbrev State.ResetHeld (s : State) : Prop :=
  s.acc = 0x811c9dc5 ∧ s.count = 0 ∧ s.err = false ∧ s.cause = 0#3 ∧ s.outstanding = none ∧
    s.response = none

/-- A response cycle has no transaction outstanding, and an error response carries rdata 0 (R33, R83). -/
abbrev State.ResponseLegal (s : State) : Prop :=
  match s.response with
  | none => True
  | some r => s.outstanding = none ∧ (r.err = true → r.rdata = 0)

/-- An outstanding legal request has less than its latency left to wait (R187). -/
abbrev State.WaitLegal (s : State) : Prop :=
  match s.outstanding with
  | none => True
  | some f =>
    match decode f.request with
    | .ok i => f.wait < latency i
    | .error _ => True

/-- The invariant of the engine's states. Before the first reset the registers and OUTSTANDING hold nothing
the spec names, so nothing is asked of them. -/
structure State.Inv (s : State) : Prop where
  logLegal : s.phase ≠ .unreset → s.LogLegal
  resetHeld : s.phase = .inReset → s.ResetHeld
  responseLegal : s.ResponseLegal
  waitLegal : s.phase ≠ .unreset → s.WaitLegal
  noResponseBeforeReset : s.phase = .unreset → s.response = none

/-- `n` steps, ending at the first fault or refusal. -/
def runSteps : Nat → State → Host.Outcome State Fault Refusal
  | 0, s => .next s
  | n + 1, s => andThen (step s) (runSteps n)

/-- A state some run from power-up can reach, whatever the outside world does. -/
inductive Reachable : State → Prop
  | powerUp (inputs : List Input) : Reachable { State.powerUp with inputs := inputs }
  | step {s t : State} : Reachable s → Machine.step s = .next t → Reachable t

/-- Requests of one direction to one slot are refused for a wrong size, and else for a misaligned address
(the first two entries of every rule's exception list: R108 to R110, R130 to R134). -/
def SizeAndAlignmentRefused (we : Bool) (slot : BitVec 3) : Prop :=
  ∀ q : Request, q.we = we → q.addr.extractLsb' 2 3 = slot →
    (q.size ≠ 0b10 → cause q = some .badSize) ∧
    (q.size = 0b10 → q.addr.extractLsb' 0 2 ≠ 0 → cause q = some .misaligned)

/-- An aligned word request of one direction at one offset is refused with a given cause, whatever its
WDATA. -/
def OffsetRefused (we : Bool) (offset : BitVec 5) (c : AccessCause) : Prop :=
  ∀ q : Request, q.we = we → q.size = 0b10 → q.addr = offset → cause q = some c

/-- A refused request of one direction to one slot leaves ACC and COUNT alone, answers err = 1 with
rdata = 0, and logs its cause unless an error is logged already (R153, R154). -/
def RefusalKeepsHash (we : Bool) (slot : BitVec 3) : Prop :=
  ∀ (q : Request) (c : AccessCause) (s : State), q.we = we → q.addr.extractLsb' 2 3 = slot →
    cause q = some c → s.InService →
    ∃ t, perform q s = .next t ∧ t.acc = s.acc ∧ t.count = s.count ∧
      t.response = some ⟨true, 0⟩ ∧ t.err = true ∧
      t.cause = if s.err then s.cause else c.code

/-- The requests of which none clears the error log: no WR_STATUS with c = 1 (R192). -/
def keepsLog (qs : List Request) : Bool := qs.all (fun q => decide (decode q ≠ .ok (.wrStatus true)))

/-- A transaction completes at this step: the next input is an edge without reset, the engine runs, and
the latency of the outstanding request `q` has passed (R32, R33). -/
def State.CompletesNow (s : State) (q : Request) : Prop :=
  s.NextEdgeKeepsRunning ∧ s.phase = .running ∧ s.outstanding = some ⟨q, 0⟩

/-- The responses of a call a host may trust: none carries an error (R192). -/
def cleanCall (rs : List Response) : Bool := rs.all (fun r => !r.err)

end Sys2Proof.Machine
end

