-- ==== Sys2Proof/Certificates/Slice0/Obligations.lean ====
section
/-! DEFINITION. The statements for the provers. Each docstring names the rules of spec/ it rests on. -/

open Sys2Proof Sys2Proof.Machine

/-! ## Encoding -/

/-- R80: the request word has the fields WE [39], SIZE [38:37], ADDR [36:32] and WDATA [31:0], and
packing and unpacking lose nothing. -/
def Obligations.RequestWordFields : Prop :=
  (∀ word : BitVec 40,
    (Request.ofWord word).we = word.getLsbD 39 ∧
    (Request.ofWord word).size = word.extractLsb' 37 2 ∧
    (Request.ofWord word).addr = word.extractLsb' 32 5 ∧
    (Request.ofWord word).wdata = word.extractLsb' 0 32 ∧
    (Request.ofWord word).toWord = word) ∧
  (∀ q : Request, Request.ofWord q.toWord = q)

/-- R81, R84: decoding the request word of any transaction gives that transaction back, with every
operand at every value. Every term of `Instr` is well formed. -/
def Obligations.DecodeOfEncode : Prop :=
  ∀ i : Instr, i.wellFormed = true → decodeWord (encode i) = .ok i

/-- R81, R85, R35: a word that decodes to a write is that write's own word, bit for bit; a word that
decodes to a read agrees with that read's word in WE, SIZE and ADDR. -/
def Obligations.EncodeOfDecode : Prop :=
  ∀ (word : BitVec 40) (i : Instr), decodeWord word = .ok i →
    (word.getLsbD 39 = true → word = encode i) ∧
    (word.getLsbD 39 = false → word.extractLsb' 32 8 = (encode i).extractLsb' 32 8)

/-- R81: the eight rows with their match and mask; a word is legal exactly when it selects a row, and
then decodes to that row's kind; no two rows overlap, as any two differ in WE or ADDR and every mask
holds those bits; and the operand letters of the write rows name the WDATA bits that are not fixed. -/
def Obligations.OpcodeMap : Prop :=
  opcodeTable =
    [⟨.rdId, 0x4000000000, 0xFF00000000⟩, ⟨.wrCtrl, 0xC400000000, 0xFFFFFFFFFE⟩,
     ⟨.rdStatus, 0x4800000000, 0xFF00000000⟩, ⟨.wrStatus, 0xC800000000, 0xFFFFFFFFFE⟩,
     ⟨.wrData8, 0xCC00000000, 0xFFFFFFFF00⟩, ⟨.wrData32, 0xD000000000, 0xFF00000000⟩,
     ⟨.rdResult, 0x5400000000, 0xFF00000000⟩, ⟨.rdCount, 0x5800000000, 0xFF00000000⟩] ∧
  (∀ (word : BitVec 40) (r : Row), r ∈ opcodeTable →
    (word &&& r.mask = r.pattern ↔ ∃ i, decodeWord word = .ok i ∧ i.kind = r.kind)) ∧
  (∀ word : BitVec 40, (∀ r ∈ opcodeTable, word &&& r.mask ≠ r.pattern) ↔
    ∃ c, decodeWord word = .error c) ∧
  (∀ (word : BitVec 40) (r r' : Row), r ∈ opcodeTable → r' ∈ opcodeTable →
    word &&& r.mask = r.pattern → word &&& r'.mask = r'.pattern → r = r') ∧
  (∀ r ∈ opcodeTable, r.mask.extractLsb' 32 8 = 0xFF) ∧
  (∀ r ∈ opcodeTable, ∀ r' ∈ opcodeTable, r ≠ r' →
    r.pattern.getLsbD 39 ≠ r'.pattern.getLsbD 39 ∨
    r.pattern.extractLsb' 32 5 ≠ r'.pattern.extractLsb' 32 5) ∧
  (∀ (word : BitVec 40) (i : Bool), decodeWord word = .ok (.wrCtrl i) → word.getLsbD 0 = i) ∧
  (∀ (word : BitVec 40) (c : Bool), decodeWord word = .ok (.wrStatus c) → word.getLsbD 0 = c) ∧
  (∀ (word : BitVec 40) (b : Byte), decodeWord word = .ok (.wrData8 b) →
    word.extractLsb' 0 8 = b) ∧
  (∀ (word : BitVec 40) (w : Word), decodeWord word = .ok (.wrData32 w) →
    word.extractLsb' 0 32 = w)

/-- R152: the cause of a request is the first failing check in the order of the codes, and for a read
WDATA plays no part. -/
def Obligations.CausePriority : Prop :=
  (∀ q : Request, causeCode q =
    if q.size.toNat ≠ 2 then 1
    else if q.addr.toNat % 4 ≠ 0 then 2
    else if q.addr.toNat / 4 = 7 then 3
    else if q.we = true ∧ q.addr.toNat / 4 ∈ [0, 5, 6] then 4
    else if q.we = false ∧ q.addr.toNat / 4 ∈ [1, 3, 4] then 5
    else if q.we = true ∧ q.addr.toNat / 4 ∈ [1, 2] ∧ q.wdata.toNat / 2 ≠ 0 then 6
    else if q.we = true ∧ q.addr.toNat / 4 = 3 ∧ q.wdata.toNat / 256 ≠ 0 then 6
    else 0) ∧
  (∀ (size : BitVec 2) (addr : BitVec 5) (v v' : Word),
    causeCode ⟨false, size, addr, v⟩ = causeCode ⟨false, size, addr, v'⟩)

/-- R87: the illegal words are those that match no row; they are exactly the listed parts of the illegal
space; and each is refused with the cause R152 assigns, whatever the state. -/
def Obligations.IllegalSpace : Prop :=
  (∀ word : BitVec 40,
    ((∀ r ∈ opcodeTable, word &&& r.mask ≠ r.pattern) ↔
      (word.extractLsb' 37 2 ≠ 0b10 ∨
       word.extractLsb' 32 2 ≠ 0 ∨
       word.extractLsb' 32 5 = 0x1C ∨
       (word.getLsbD 39 = true ∧ word.extractLsb' 32 5 ∈ [0x00, 0x14, 0x18]) ∨
       (word.getLsbD 39 = false ∧ word.extractLsb' 32 5 ∈ [0x04, 0x0C, 0x10]) ∨
       (word.getLsbD 39 = true ∧ word.extractLsb' 32 5 ∈ [0x04, 0x08] ∧
          word.extractLsb' 1 31 ≠ 0) ∨
       (word.getLsbD 39 = true ∧ word.extractLsb' 32 5 = 0x0C ∧ word.extractLsb' 8 24 ≠ 0))) ∧
    ((∀ r ∈ opcodeTable, word &&& r.mask ≠ r.pattern) ↔
      ∃ c, cause (Request.ofWord word) = some c)) ∧
  (∀ (word : BitVec 40) (c : AccessCause), cause (Request.ofWord word) = some c →
    decodeWord word = .error c ∧ ∀ s, perform (Request.ofWord word) s = accessError c s)

/-- R81, R84, R151, R152: request words written out from the spec's tables decode to what they stand
for (one legal word of every row, and one refused word of every cause). -/
def Obligations.SampleWordsDecode : Prop :=
  decodeWord 0x4000000000 = .ok .rdId ∧
  decodeWord 0xC400000001 = .ok (.wrCtrl true) ∧
  decodeWord 0x4800000000 = .ok .rdStatus ∧
  decodeWord 0xC800000001 = .ok (.wrStatus true) ∧
  decodeWord 0xCC00000061 = .ok (.wrData8 0x61) ∧
  decodeWord 0xD0666F6F62 = .ok (.wrData32 0x666F6F62) ∧
  decodeWord 0x54FFFFFFFF = .ok .rdResult ∧
  decodeWord 0x5800000000 = .ok .rdCount ∧
  decodeWord 0x9D00000000 = .error .badSize ∧
  decodeWord 0x5D00000000 = .error .misaligned ∧
  decodeWord 0xDC00000000 = .error .unmapped ∧
  decodeWord 0xD400000005 = .error .writeRo ∧
  decodeWord 0x44FFFFFFFF = .error .readWo ∧
  decodeWord 0xCC00000100 = .error .reservedBits

/-! ## The datapath -/

/-- R101: XOR first, then the exact product with 0x01000193 reduced mod 2^32. -/
def Obligations.AbsorbStepIsExact : Prop :=
  ∀ (acc : Word) (b : Byte),
    (fnvStep acc b).toNat = (0x01000193 * (acc.toNat ^^^ b.toNat)) % 2 ^ 32

/-- R102: the hash is the left fold of the step from BASIS, so the empty sequence hashes to BASIS and a
longer one continues from the hash of what went before; it is order-sensitive; with the source's vectors
for "a" and "foobar". -/
def Obligations.HashIsTheFold : Prop :=
  (∀ bs : List Byte, fnvHash bs = bs.foldl fnvStep 0x811c9dc5) ∧
  fnvHash [] = 0x811c9dc5 ∧
  fnvHash [0x61, 0x62] ≠ fnvHash [0x62, 0x61] ∧
  (∀ bs cs : List Byte, fnvHash (bs ++ cs) = cs.foldl fnvStep (fnvHash bs)) ∧
  fnvHash [0x61] = 0xe40c292c ∧
  fnvHash [0x66, 0x6F, 0x6F, 0x62, 0x61, 0x72] = 0xbf9cf968

/-- R104: the byte enters zero-extended: bits [31:8] of ACC pass the XOR unchanged, and the hash of
0xFF is the zero-extended one. Zero extension is the spec's decision D20 (log entry 11); the two hashes
are its own evaluation, "[derived: by evaluation of rules R101 and R102]". -/
def Obligations.ByteIsZeroExtended : Prop :=
  (∀ (acc : Word) (b : Byte),
    (acc ^^^ zext32 b).extractLsb' 8 24 = acc.extractLsb' 8 24 ∧
    (acc ^^^ zext32 b).extractLsb' 0 8 = acc.extractLsb' 0 8 ^^^ b) ∧
  fnvHash [0xFF] = 0x7a0b824e ∧
  (0x01000193 : Word) * ((0x811c9dc5 : Word) ^^^ BitVec.signExtend 32 (0xFF : Byte)) = 0xf9f3a14e

/-- The spec's own inference "[derived: from rule R100 by binary expansion …]" of R105: PRIME is 2^24 +
2^8 + 2^7 + 2^4 + 2^1 + 2^0, so the multiplication is a sum of shifts. -/
def Obligations.ShiftAddMultiplier : Prop :=
  Config.prime.toNat = 2 ^ 24 + 2 ^ 8 + 2 ^ 7 + 2 ^ 4 + 2 ^ 1 + 2 ^ 0 ∧
  ∀ x : Word, (0x01000193 : Word) * x =
    (x <<< 24) + (x <<< 8) + (x <<< 7) + (x <<< 4) + (x <<< 1) + x

/-- The spec's own inference "[derived: from rules R100 and R101]" of R106: PRIME has the inverse
PRIME_INV mod 2^32; the step is a bijection of the accumulator, injective in the byte, and undone by
PRIME_INV. -/
def Obligations.AbsorbStepInvertible : Prop :=
  (0x01000193 : Word) * 0x359c449b = 1 ∧
  (∀ b : Byte, Function.Bijective (fun acc : Word => fnvStep acc b)) ∧
  (∀ acc : Word, Function.Injective (fun b : Byte => fnvStep acc b)) ∧
  (∀ (acc : Word) (b : Byte), acc = ((0x359c449b : Word) * fnvStep acc b) ^^^ zext32 b)

/-- The spec's own inference "[derived: from rules R101 and R106]" of R112: two sequences that differ in
the byte at one index have different hashes; a flip of one bit of the hashed region of a file that
verifies makes it INVALID; changes at several indices can collide. -/
def Obligations.SingleByteSensitivity : Prop :=
  (∀ (front back : List Byte) (b b' : Byte), b ≠ b' →
    fnvHash (front ++ b :: back) ≠ fnvHash (front ++ b' :: back)) ∧
  (∀ (f : List Byte) (r : Report) (i : Nat) (b : Byte), verify f = .ok r → r.verdict = .valid →
    i < 0x30C → b ≠ f.getD i 0 →
    ∃ r', verify (f.set i b) = .ok r' ∧ r'.verdict = .invalid) ∧
  (∃ bs cs : List Byte, bs.length = cs.length ∧ bs ≠ cs ∧ fnvHash bs = fnvHash cs)

/-! ## The transactions -/

/-- R108 (WR_CTRL), whole: INIT, the no-op, the encoding, the refusals, and the corner cases. -/
def Obligations.WrCtrlRule : Prop :=
  (∀ s : State, s.InService → exec (.wrCtrl true) s =
    .next { s with acc := 0x811c9dc5, count := 0, response := some ⟨false, 0⟩,
                   outstanding := none }) ∧
  (∀ s : State, s.InService → exec (.wrCtrl false) s =
    .next { s with response := some ⟨false, 0⟩, outstanding := none }) ∧
  (∀ word : BitVec 40, word &&& 0xFFFFFFFFFE = 0xC400000000 →
    decodeWord word = .ok (.wrCtrl (word.getLsbD 0))) ∧
  SizeAndAlignmentRefused true 1 ∧
  (∀ q : Request, q.we = true → q.size = 0b10 → q.addr = 0x04 → q.wdata.extractLsb' 1 31 ≠ 0 →
    cause q = some .reservedBits) ∧
  RefusalKeepsHash true 1 ∧
  (∀ s t u : State, exec (.wrCtrl true) s = .next t → exec (.wrCtrl true) t = .next u → u = t)

/-- R109 (WR_DATA8), whole: one absorb step and one count, the encoding, the refusals, and the corner
cases with their values. -/
def Obligations.WrData8Rule : Prop :=
  (∀ (b : Byte) (s : State), s.InService → exec (.wrData8 b) s =
    .next { s with acc := (0x01000193 : Word) * (s.acc ^^^ b.setWidth 32), count := s.count + 1,
                   response := some ⟨false, 0⟩, outstanding := none }) ∧
  (∀ word : BitVec 40, word &&& 0xFFFFFFFF00 = 0xCC00000000 →
    decodeWord word = .ok (.wrData8 (word.extractLsb' 0 8))) ∧
  SizeAndAlignmentRefused true 3 ∧
  (∀ q : Request, q.we = true → q.size = 0b10 → q.addr = 0x0C → q.wdata.extractLsb' 8 24 ≠ 0 →
    cause q = some .reservedBits) ∧
  RefusalKeepsHash true 3 ∧
  (∀ (s : State) (v : Byte × Word),
    s.InService → s.acc = 0x811c9dc5 → s.count = 0xFFFFFFFF →
    v ∈ [(0x00, 0x050c5d1f), (0x80, 0x850b939f), (0xFF, 0x7a0b824e), (0x61, 0xe40c292c)] →
    ∃ t, exec (.wrData8 v.1) s = .next t ∧ t.acc = v.2 ∧ t.count = 0)

/-- R110 (WR_DATA32), whole: four absorb steps from the most significant byte on, the count of four,
the encoding, the refusals, the equality with four WR_DATA8 (which the rule marks "[derived: from this
rule and rule R109]"), and the rule's values. -/
def Obligations.WrData32Rule : Prop :=
  (∀ (w : Word) (s : State), s.InService → exec (.wrData32 w) s =
    .next { s with
      acc := fnvStep (fnvStep (fnvStep (fnvStep s.acc (w.extractLsb' 24 8)) (w.extractLsb' 16 8))
        (w.extractLsb' 8 8)) (w.extractLsb' 0 8)
      count := s.count + 4
      response := some ⟨false, 0⟩
      outstanding := none }) ∧
  (∀ word : BitVec 40, word &&& 0xFF00000000 = 0xD000000000 →
    decodeWord word = .ok (.wrData32 (word.extractLsb' 0 32))) ∧
  SizeAndAlignmentRefused true 4 ∧
  (∀ q : Request, q.we = true → q.size = 0b10 → q.addr = 0x10 → cause q = none) ∧
  RefusalKeepsHash true 4 ∧
  (∀ (w : Word) (s t : State), exec (.wrData32 w) s = .next t →
    ∃ u rs, serveAll ([w.extractLsb' 24 8, w.extractLsb' 16 8, w.extractLsb' 8 8,
        w.extractLsb' 0 8].map (fun b => (Instr.wrData8 b).toRequest)) s = .next (u, rs) ∧
      u.acc = t.acc ∧ u.count = t.count) ∧
  (∀ s : State, s.InService → s.acc = 0x811c9dc5 → s.count = 0xFFFFFFFE →
    (∃ t, exec (.wrData32 0) s = .next t ∧ t.acc = 0x4b95f515 ∧ t.count = 2) ∧
    (∃ t, exec (.wrData32 0x666F6F62) s = .next t ∧ t.acc = 0x3f5076ef)) ∧
  fnvStep 0x811c9dc5 0x66 = 0xe30c2799 ∧ fnvStep 0xe30c2799 0x6F = 0x6222e842 ∧
  fnvStep 0x6222e842 0x6F = 0xa9f37ed7 ∧ fnvStep 0xa9f37ed7 0x62 = 0x3f5076ef

/-- R130 (RD_ID), whole: the constant, in every state the engine serves; the encoding; the refusals. An
engine that was never reset serves nothing (log entry 7). -/
def Obligations.RdIdRule : Prop :=
  (∀ s : State, s.InService → exec .rdId s =
    .next { s with response := some ⟨false, 0x464E5631⟩, outstanding := none }) ∧
  (∀ word : BitVec 40, word &&& 0xFF00000000 = 0x4000000000 ↔ decodeWord word = .ok .rdId) ∧
  SizeAndAlignmentRefused false 0 ∧
  OffsetRefused true 0x00 .writeRo

/-- R131 (RD_STATUS), whole: the read value bit by bit, no side effect, the encoding, the refusals
(which log like any other), the only values it can have, and the rule's example. -/
def Obligations.RdStatusRule : Prop :=
  (∀ s : State, s.InService → ∃ v : Word,
    exec .rdStatus s = .next { s with response := some ⟨false, v⟩, outstanding := none } ∧
    v.getLsbD 0 = s.err ∧ v.extractLsb' 1 3 = s.cause ∧ v.extractLsb' 4 28 = 0 ∧
    (s.LogLegal → v ∈ [0x0, 0x3, 0x5, 0x7, 0x9, 0xB, 0xD])) ∧
  (∀ word : BitVec 40, word &&& 0xFF00000000 = 0x4800000000 ↔ decodeWord word = .ok .rdStatus) ∧
  SizeAndAlignmentRefused false 2 ∧
  RefusalKeepsHash false 2 ∧
  (∃ t, exec .rdStatus State.reset = .next t ∧ t.response = some ⟨false, 0x00000000⟩) ∧
  (∃ t, serveAll [Request.ofWord 0x8C00000061, Request.ofWord 0x4800000000] State.reset =
    .next (t, [⟨true, 0⟩, ⟨false, 0x00000003⟩]))

/-- R132 (RD_RESULT), whole: the accumulator with nothing else changed, the encoding, the refusals, the
value right after reset and after INIT, and that a read at any point of any sequence of requests
returns the hash of every byte absorbed before it. -/
def Obligations.RdResultRule : Prop :=
  (∀ s : State, s.InService → exec .rdResult s =
    .next { s with response := some ⟨false, s.acc⟩, outstanding := none }) ∧
  (∀ word : BitVec 40, word &&& 0xFF00000000 = 0x5400000000 ↔ decodeWord word = .ok .rdResult) ∧
  SizeAndAlignmentRefused false 5 ∧
  OffsetRefused true 0x14 .writeRo ∧
  (∃ t, exec .rdResult State.reset = .next t ∧ t.response = some ⟨false, 0x811c9dc5⟩) ∧
  (∀ s t : State, exec (.wrCtrl true) s = .next t →
    ∃ u, exec .rdResult t = .next u ∧ u.response = some ⟨false, 0x811c9dc5⟩) ∧
  (∀ qs : List Request, ∃ t rs,
    serveAll (qs ++ [Request.ofWord 0x5400000000]) State.reset = .next (t, rs) ∧
    rs.getLast? = some ⟨false, fnvHash (streamAfter [] qs)⟩)

/-- R133 (RD_COUNT), whole: the counter with nothing else changed, the encoding, the refusals; after
any requests from reset it is the number of bytes absorbed since the last INIT, mod 2^32, and refused
absorbs do not count. -/
def Obligations.RdCountRule : Prop :=
  (∀ s : State, s.InService → exec .rdCount s =
    .next { s with response := some ⟨false, s.count⟩, outstanding := none }) ∧
  (∀ word : BitVec 40, word &&& 0xFF00000000 = 0x5800000000 ↔ decodeWord word = .ok .rdCount) ∧
  SizeAndAlignmentRefused false 6 ∧
  OffsetRefused true 0x18 .writeRo ∧
  (∀ qs : List Request, ∃ t rs, serveAll qs State.reset = .next (t, rs) ∧
    t.count.toNat = (streamAfter [] qs).length % 2 ^ 32) ∧
  (∀ (bs : List Byte) (q : Request), cause q ≠ none → streamStep bs q = bs)

/-- R134 (WR_STATUS), whole: clearing the log, the no-op, the encoding, the refusals, and that ACC and
COUNT are never touched. -/
def Obligations.WrStatusRule : Prop :=
  (∀ s : State, s.InService → exec (.wrStatus true) s =
    .next { s with err := false, cause := 0, response := some ⟨false, 0⟩, outstanding := none }) ∧
  (∀ s : State, s.InService → exec (.wrStatus false) s =
    .next { s with response := some ⟨false, 0⟩, outstanding := none }) ∧
  (∀ word : BitVec 40, word &&& 0xFFFFFFFFFE = 0xC800000000 →
    decodeWord word = .ok (.wrStatus (word.getLsbD 0))) ∧
  SizeAndAlignmentRefused true 2 ∧
  (∀ q : Request, q.we = true → q.size = 0b10 → q.addr = 0x08 → q.wdata.extractLsb' 1 31 ≠ 0 →
    cause q = some .reservedBits) ∧
  RefusalKeepsHash true 2

/-- R88: the two no-op encodings are legal, answer (0, 0) and change no register; the four reads change
none either. -/
def Obligations.NoOpsChangeNothing : Prop :=
  decodeWord 0xC400000000 = .ok (.wrCtrl false) ∧ decodeWord 0xC800000000 = .ok (.wrStatus false) ∧
  ∀ (i : Instr) (s : State), s.InService →
    i ∈ [.wrCtrl false, .wrStatus false, .rdId, .rdStatus, .rdResult, .rdCount] →
    ∃ v : Word, (i ∈ [.wrCtrl false, .wrStatus false] → v = 0) ∧
      exec i s = .next { s with response := some ⟨false, v⟩, outstanding := none }

/-- R150: a legal request never errors: whatever ACC, COUNT, ERR, CAUSE and the operands hold, it
answers err = 0. -/
def Obligations.LegalRequestsNeverError : Prop :=
  ∀ (q : Request) (i : Instr) (s : State), decode q = .ok i → s.InService →
    ∃ (t : State) (v : Word), perform q s = .next t ∧ exec i s = .next t ∧
      t.response = some ⟨false, v⟩ ∧ t.outstanding = none ∧ t.InService

/-- R108 to R110, R130 to R134: the frame of every transaction. Only INIT and the absorbs change ACC and
COUNT, only WR_STATUS changes ERR and CAUSE, and none touches the phase or the schedule. -/
def Obligations.TransactionFrame : Prop :=
  ∀ (i : Instr) (s t : State), exec i s = .next t →
    (i.kind ∉ [.wrCtrl, .wrData8, .wrData32] → t.acc = s.acc ∧ t.count = s.count) ∧
    (i.kind ≠ .wrStatus → t.err = s.err ∧ t.cause = s.cause) ∧
    t.phase = s.phase ∧ t.inputs = s.inputs ∧ t.draws = s.draws

/-- R35: for a read WDATA is ignored entirely: neither the decode nor the cause nor the state depends on
it, neither at the transaction nor at the acceptance, and neither does the response's delay. -/
def Obligations.ReadIgnoresWdata : Prop :=
  ∀ (q : Request) (v : Word) (s : State), q.we = false →
    decode { q with wdata := v } = decode q ∧ cause { q with wdata := v } = cause q ∧
    perform { q with wdata := v } s = perform q s ∧
    s.accept { q with wdata := v } = s.accept q ∧
    ∀ d : Nat, responseDelay { q with wdata := v } d = responseDelay q d

/-- R86: `exec(s, q)` depends only on the registers and the request: two states that agree on ACC,
COUNT, ERR and CAUSE answer alike and agree again. -/
def Obligations.TransactionDependsOnRegistersOnly : Prop :=
  ∀ (q : Request) (s s' : State), s.InService → s'.InService →
    s.acc = s'.acc → s.count = s'.count → s.err = s'.err → s.cause = s'.cause →
    ∃ t t', perform q s = .next t ∧ perform q s' = .next t' ∧ t.response = t'.response ∧
      t.acc = t'.acc ∧ t.count = t'.count ∧ t.err = t'.err ∧ t.cause = t'.cause

/-! ## Errors -/

/-- R153: the effect of an access error: the log, the answer (1, 0), and nothing else. -/
def Obligations.AccessErrorEffect : Prop :=
  ∀ (q : Request) (c : AccessCause) (s : State), cause q = some c → s.InService →
    perform q s = .next { s with
      err := true
      cause := if s.err then s.cause else c.code
      response := some ⟨true, 0⟩
      outstanding := none }

/-- R151: the recorded codes are 1 to 6, a different one for each cause; 0 and 7 are no cause's. -/
def Obligations.CauseCodes : Prop :=
  AccessCause.badSize.code = 1 ∧ AccessCause.misaligned.code = 2 ∧ AccessCause.unmapped.code = 3 ∧
  AccessCause.writeRo.code = 4 ∧ AccessCause.readWo.code = 5 ∧ AccessCause.reservedBits.code = 6 ∧
  (∀ c c' : AccessCause, c.code = c'.code → c = c') ∧
  (∀ q : Request, causeCode q ≠ 7 ∧ (causeCode q = 0 ↔ ∃ i, decode q = .ok i))

/-- R154: log_error captures the first error; INIT does not clear it; and ERR is sticky: at a rising
edge that takes it from 1 to 0 the engine is reset or completes a WR_STATUS with c = 1; while it is 1,
CAUSE keeps the first cause. That it falls at the very edge that completes the WR_STATUS is the model's
choice (log entry 5, with log entry 1); a loss of power is no rising edge (log entry 8). That ERR and
CAUSE of an engine never reset, which R181 leaves unspecified, stay from edge to edge is the model's too
(log entry 7). -/
def Obligations.ErrIsSticky : Prop :=
  (∀ (s : State) (code : BitVec 3), s.err = false →
    s.logError code = { s with err := true, cause := code }) ∧
  (∀ (s : State) (code : BitVec 3), s.err = true → s.logError code = s) ∧
  (∀ s t : State, exec (.wrCtrl true) s = .next t → t.err = s.err ∧ t.cause = s.cause) ∧
  ∀ (s t : State) (pins : PinSample), s.nextInput = .edge pins → step s = .next t →
    s.err = true → (t.err = false ∨ t.cause ≠ s.cause) →
    pins.rstN = false ∨ ∃ q, s.CompletesNow q ∧ decode q = .ok (.wrStatus true)

/-- R25, R153, R154: only an error response sets ERR: at a rising edge that takes it from 0 to 1 the
engine presents an error response to a refused request, whose cause CAUSE records. That it rises at the
very edge that completes the request is the model's choice (log entry 5, with log entry 1); a loss of
power is no rising edge (log entry 8). That ERR of an engine never reset, which R181 leaves unspecified,
stays from edge to edge is the model's too (log entry 7). -/
def Obligations.ErrSetOnlyByRefusal : Prop :=
  ∀ (s t : State) (pins : PinSample), s.nextInput = .edge pins → step s = .next t →
    s.err = false → t.err = true → ∃ q c, s.CompletesNow q ∧ cause q = some c ∧ t.cause = c.code ∧
      t.response = some ⟨true, 0⟩

/-- The spec's own inference "[derived: from rules R153 and R154]" of R192: over any requests that start
with a cleared log and do not clear it, STATUS.ERR at the end says whether some response carried an
error, and CAUSE is the first one's. -/
def Obligations.LogTellsWhetherACallWasClean : Prop :=
  ∀ (qs : List Request) (s : State), s.InService → s.err = false → keepsLog qs = true →
    ∃ t rs, serveAll qs s = .next (t, rs) ∧ rs.length = qs.length ∧
      (t.err = false ↔ cleanCall rs = true) ∧
      (∀ c, qs.findSome? cause = some c → t.cause = c.code)

/-! ## Sequences of transactions -/

/-- R57, R101, R108 to R110, R153: whatever requests are accepted, legal or not, from whichever
hosts, ACC is the hash of the bytes absorbed since the last INIT and COUNT is their number mod 2^32. -/
def Obligations.EngineHashesItsStream : Prop :=
  ∀ (bs : List Byte) (qs : List Request) (s : State), s.InService → s.acc = fnvHash bs →
    s.count = BitVec.ofNat 32 bs.length →
    ∃ t rs, serveAll qs s = .next (t, rs) ∧ t.InService ∧ rs.length = qs.length ∧
      t.acc = fnvHash (streamAfter bs qs) ∧
      t.count = BitVec.ofNat 32 (streamAfter bs qs).length

/-- The spec's own inference "[derived: from rules R102, R108, R109, R110 …]" of R111: a hash call
returns fnv_hash of the bytes it fed, whichever way they are split between DATA8 and DATA32, and
RD_COUNT then returns their number mod 2^32; straight after reset INIT may be left out. -/
def Obligations.HashCallReturnsTheHash : Prop :=
  (∀ (absorbs : List Instr) (s : State), s.InService → absorbs.all isAbsorb = true →
    ∃ t rs, serveAll (hashCall absorbs) s = .next (t, rs) ∧ cleanCall rs = true ∧
      rs.getLast? = some ⟨false, fnvHash (fedBytes absorbs)⟩ ∧
      ∃ u, exec .rdCount t = .next u ∧
        u.response = some ⟨false, BitVec.ofNat 32 (fedBytes absorbs).length⟩) ∧
  (∀ absorbs : List Instr, absorbs.all isAbsorb = true →
    ∃ t rs, serveAll (absorbs.map Instr.toRequest ++ [Instr.toRequest .rdResult]) State.reset =
        .next (t, rs) ∧
      rs.getLast? = some ⟨false, fnvHash (fedBytes absorbs)⟩)

/-- R190, R57 (log entry 12: the engine sees the requests of all hosts in one order): with exclusive use
between INIT and RD_RESULT a host's call returns the hash of its own bytes, whatever reads, status
writes and refused requests of other hosts come between; without it, the hash of the stream the engine
accepted. -/
def Obligations.ExclusiveUseGivesTheHash : Prop :=
  ∀ (h : Nat) (absorbs : List Instr) (between : List Issued) (s : State), s.InService →
    absorbs.all isAbsorb = true → programOf h between = absorbs.map Instr.toRequest →
    ∃ t rs, serveAll (Instr.toRequest (.wrCtrl true) :: acceptedOrder between ++
        [Instr.toRequest .rdResult]) s = .next (t, rs) ∧
      rs.getLast? = some ⟨false, fnvHash (streamAfter [] (acceptedOrder between))⟩ ∧
      (exclusiveUse h between = true →
        rs.getLast? = some ⟨false, fnvHash (fedBytes absorbs)⟩)

/-- The spec's own inference "[derived: from …]" of R56: a legal read can be repeated or dropped
anywhere in a sequence of requests with no change to the registers it ends with. -/
def Obligations.ReadsCanBeDropped : Prop :=
  ∀ (i : Instr) (before after : List Request) (s : State), s.InService →
    i ∈ [.rdId, .rdStatus, .rdResult, .rdCount] →
    ∃ t rs u rs', serveAll (before ++ i.toRequest :: after) s = .next (t, rs) ∧
      serveAll (before ++ after) s = .next (u, rs') ∧
      t.acc = u.acc ∧ t.count = u.count ∧ t.err = u.err ∧ t.cause = u.cause

/-! ## Scripts -/

/-- R90: the assembler refuses exactly a `rd` of a write-only register, a `wr` of a read-only register,
a number out of range, and a `wr` that sets reserved bits; so what it accepts as `rd` or `wr` is a legal
request, and the `.raw` forms spell every request. -/
def Obligations.AssemblerAcceptsLegalOnly : Prop :=
  (∀ r : Reg, (∃ q, assemble (.rd r) = .ok q) ↔ r ∈ [.id, .status, .result, .count]) ∧
  (∀ (r : Reg) (imm : Nat), (∃ q, assemble (.wr r imm) = .ok q) ↔
    (r ∈ [.ctrl, .status] ∧ imm < 2) ∨ (r = .data8 ∧ imm < 256) ∨ (r = .data32 ∧ imm < 2 ^ 32)) ∧
  (∀ (r : Reg) (q : Request), assemble (.rd r) = .ok q → ∃ i, decode q = .ok i) ∧
  (∀ (r : Reg) (imm : Nat) (q : Request), assemble (.wr r imm) = .ok q →
    q.wdata.toNat = imm ∧ ∃ i, decode q = .ok i) ∧
  (∀ q : Request, ∃ (sz : SizeCode) (off imm : Nat),
    (q.we = true → assemble (.wrRaw sz off imm) = .ok q) ∧
    (q.we = false → assemble (.rdRaw sz off) = .ok { q with wdata := 0 }))

/-- R91, R111: the pseudo-instruction `hash bs` assembles, and run on the engine it reads
fnv_hash(bs). -/
def Obligations.HashPseudoRuns : Prop :=
  ∀ (bs : List Byte) (s : State), s.InService →
    ∃ (qs : List Request) (t : State) (rs : List Response),
      (expand (.hash bs)).map assemble = qs.map Except.ok ∧
      serveAll qs s = .next (t, rs) ∧ cleanCall rs = true ∧
      rs.getLast? = some ⟨false, fnvHash bs⟩ ∧ t.count = BitVec.ofNat 32 bs.length

/-! ## The save container -/

/-- The spec's own inferences of R70 and R165, with R68: the engine procedure over any file gives the
host the verdict of the pure verification, and RD_COUNT returns 780. That the optional RD_COUNT is always
issued, and that bytes past the end of a file read 0, which the second clause uses for a truncated file,
are the model's choices (log entry 17). -/
def Obligations.EngineVerifiesAFile : Prop :=
  ∀ (f : List Byte) (s : State), s.InService →
    verifyOnEngine f s = some (verify f) ∧
    ∃ t rs, serveAll (checksumScript f) s = .next (t, rs) ∧ rs.getLast? = some ⟨false, 780⟩

/-- R69: the corrected copy has the file's length and bytes but for the field, which holds the expected
checksum, most significant byte first; and it verifies as VALID. -/
def Obligations.CorrectedCopyIsValid : Prop :=
  ∀ f : List Byte, 0x310 ≤ f.length →
    (correctedCopy f).length = f.length ∧
    (∀ i, i < 0x30C ∨ 0x310 ≤ i → (correctedCopy f)[i]? = f[i]?) ∧
    (correctedCopy f).getD 0x30C 0 ++ (correctedCopy f).getD 0x30D 0 ++
      (correctedCopy f).getD 0x30E 0 ++ (correctedCopy f).getD 0x30F 0 =
        (fnvHash (f.take 0x30C) : BitVec (8 + 8 + 8 + 8)) ∧
    ∃ r, verify (correctedCopy f) = .ok r ∧ r.verdict = .valid

/-- R66: a file shorter than 0x310 bytes gives TruncatedFileError and no verdict, with or without the
engine, and the engine is not used. -/
def Obligations.TruncatedFileHasNoVerdict : Prop :=
  (∀ f : List Byte, verify f = .error .truncatedFile ↔ f.length < 0x310) ∧
  (∀ (f : List Byte) (s : State), f.length < 0x310 →
    verifyOnEngine f s = some (.error .truncatedFile))

/-- R64 to R68: a long enough file of another length than 800 is warned of and judged all the same. That
bytes from 0x310 on change no verdict is the spec's own inference, "[derived: from this rule and rule
R64]" of R65. -/
def Obligations.LengthOnlyWarns : Prop :=
  ∀ f g : List Byte, 0x310 ≤ f.length → g.take 0x310 = f.take 0x310 →
    ∃ r r', verify f = .ok r ∧ verify g = .ok r' ∧
      (r.sizeMismatch = true ↔ f.length ≠ 800) ∧ (r'.sizeMismatch = true ↔ g.length ≠ 800) ∧
      r.stored = r'.stored ∧ r.expected = r'.expected ∧ r.verdict = r'.verdict ∧
      (r.verdict = .valid ↔
        f.getD 0x30C 0 ++ f.getD 0x30D 0 ++ f.getD 0x30E 0 ++ f.getD 0x30F 0 =
          (fnvHash (f.take 0x30C) : BitVec (8 + 8 + 8 + 8)))

/-! ## The step: edges, handshake, reset -/

/-- A step runs the decoded instruction (R32, R33, R86): where an outstanding request's latency has
passed, a step at an edge without reset is `exec` of the instruction it decodes to, or the access error
of its cause, at the state whose next input is taken. That a step is a rising edge, and that the effect
falls on the edge that starts the response cycle, are the model's (log entries 1 and 5). -/
def Obligations.StepRunsTheDecodedInstruction : Prop :=
  ∀ (s : State) (q : Request), s.CompletesNow q → s.cause ≠ 7#3 →
    (∀ i, decode q = .ok i → step s =
      exec i { s with inputs := s.inputs.tail, draws := s.draws + 1 }) ∧
    (∀ c, decode q = .error c → step s =
      accessError c { s with inputs := s.inputs.tail, draws := s.draws + 1 })

/-- R32, R33, R35: a request presented to a ready engine is accepted with its fields as sampled at that
edge (a read without its WDATA), which changes no register; a request presented while another is
outstanding is not. The schedule of inputs is the model's (log entry 1), a latency is a parameter (log
entry 4), and that no register changes at acceptance and while the latency passes is the model's choice
(log entry 5). -/
def Obligations.AcceptanceAtAnEdge : Prop :=
  ∀ (s : State) (pins : PinSample), s.nextInput = .edge pins → pins.rstN = true →
    s.phase = .running → s.cause ≠ 7#3 →
    (s.outstanding = none → pins.reqValid = true → step s =
      .next { s with
        outstanding := some
          ⟨{ pins.request with wdata := if pins.request.we then pins.request.wdata else 0 },
            responseDelay pins.request (s.draws + 1) - 1⟩
        response := none, inputs := s.inputs.tail, draws := s.draws + 1 }) ∧
    (s.outstanding = none → pins.reqValid = false → step s =
      .next { s with response := none, inputs := s.inputs.tail, draws := s.draws + 1 }) ∧
    (∀ (q : Request) (n : Nat), s.outstanding = some ⟨q, n + 1⟩ → step s =
      .next { s with
        outstanding := some ⟨q, n⟩
        response := none, inputs := s.inputs.tail, draws := s.draws + 1 })

/-- R187 (log entry 4): the latencies are those of the five parameters, each at least 1, and a refused
request's is at least 1. -/
def Obligations.LatencyOfEachKind : Prop :=
  (∀ i : Instr, latency i = match i.kind with
    | .rdId => Config.latRd
    | .rdStatus => Config.latRd
    | .rdResult => Config.latRd
    | .rdCount => Config.latRd
    | .wrCtrl => Config.latCtrl
    | .wrStatus => Config.latStatus
    | .wrData8 => Config.latData8
    | .wrData32 => Config.latData32) ∧
  (∀ (q : Request) (d : Nat), 1 ≤ responseDelay q d ∧
    ∀ i, decode q = .ok i → responseDelay q d = latency i)

/-- R32, R33, R187, R188: the handshake refines the transaction. A request accepted by a ready engine is
answered exactly its latency of edges later, with the effect `exec(s, q)`, if reset is not asserted;
until then no response is presented and no request accepted, whatever the host presents. The step and
the edge of the effect are the model's (log entries 1 and 5), the latency a parameter (log entry 4). -/
def Obligations.HandshakeRefinesTransaction : Prop :=
  ∀ (s : State) (q : Request) (edges : List PinSample) (rest : List Input),
    s.phase = .running → s.cause ≠ 7#3 → s.outstanding = none →
    s.inputs = .edge ⟨true, true, q⟩ :: (edges.map Input.edge ++ rest) →
    edges.all PinSample.rstN = true → edges.length = responseDelay q (s.draws + 1) →
    runSteps (edges.length + 1) s =
      perform q { s with inputs := rest, draws := s.draws + edges.length + 1 } ∧
    ∀ k, 1 ≤ k → k ≤ edges.length →
      ∃ t, runSteps k s = .next t ∧ t.rspValid = false ∧ t.reqReady = false ∧
        t.acc = s.acc ∧ t.count = s.count ∧ t.err = s.err ∧ t.cause = s.cause

/-- R182: at every rising edge with `rst_n` = 0, in any state at all, every element takes its reset
value; OUTSTANDING is cleared and no response is presented (R181, R183). ID is not affected, which is
shown by performing RD_ID on the state in reset: that `exec` runs there is the model's choice (log entry
21), while no step presents a response in reset (R181). `phase`, `inputs` and `draws` are the model's
own fields (log entries 1, 3 and 14). -/
def Obligations.ResetEdgeSetsEveryElement : Prop :=
  ∀ (s : State) (pins : PinSample), s.nextInput = .edge pins → pins.rstN = false →
    let t : State := {
      acc := 0x811c9dc5, count := 0x00000000, err := false, cause := 0b000
      outstanding := none, response := none, phase := .inReset
      inputs := s.inputs.tail, draws := s.draws + 1 }
    step s = .next t ∧
      exec .rdId t = .next { t with response := some ⟨false, 0x464E5631⟩ }

/-- R180, R181: in reset the engine drives req_ready = 0 and rsp_valid = 0; the first edge with
`rst_n` = 1 ends reset and accepts nothing, even if a request is presented; at the next one a request
can be accepted. -/
def Obligations.ReleaseOfReset : Prop :=
  ∀ s : State, s.phase = .inReset →
    s.reqReady = false ∧ s.rspValid = false ∧
    (∀ pins : PinSample, s.nextInput = .edge pins → pins.rstN = true →
      ∃ t, step s = .next t ∧ t.phase = .running ∧ t.outstanding = s.outstanding ∧
        t.response = none ∧ t.acc = s.acc ∧ t.count = s.count ∧ t.err = s.err ∧
        t.cause = s.cause ∧ (s.ResetHeld → t.reqReady = true))

/-- R186: from power-up, or any state, one edge with `rst_n` = 0 and one with `rst_n` = 1 leave the
engine as `State.reset` says, whatever was presented at those edges. That `State.reset` has reset
released is the model's choice (log entry 3). -/
def Obligations.BootReachesTheResetState : Prop :=
  ∀ (s : State) (a b : PinSample) (rest : List Input),
    s.inputs = .edge a :: .edge b :: rest → a.rstN = false → b.rstN = true →
    runSteps 2 s = .next { State.reset with inputs := rest, draws := s.draws + 2 }

/-- The spec's own inference "[derived: from rule R182 …]" of R184: reset leaves ACC and COUNT as INIT
does, RD_RESULT then returns 0x811c9dc5, and reset also clears ERR and CAUSE, which INIT does not. -/
def Obligations.ResetAgreesWithInit : Prop :=
  (∀ s t : State, exec (.wrCtrl true) s = .next t →
    t.acc = State.reset.acc ∧ t.count = State.reset.count ∧ t.err = s.err ∧ t.cause = s.cause) ∧
  State.reset.err = false ∧ State.reset.cause = 0#3 ∧
  ∃ u, exec .rdResult State.reset = .next u ∧ u.response = some ⟨false, 0x811c9dc5⟩

/-- R31 to R33: what the output ports show while the engine runs: req_ready exactly when OUTSTANDING is
0, and in a response cycle the response. -/
def Obligations.OutputPorts : Prop :=
  ∀ s : State, s.phase = .running →
    (s.reqReady = true ↔ s.outstanding = none) ∧
    (s.rspValid = true ↔ s.response ≠ none) ∧
    (∀ r, s.response = some r → s.rspErr = r.err ∧ s.rspRdata = r.rdata ∧
      r.toWord.getLsbD 32 = r.err ∧ r.toWord.extractLsb' 0 32 = r.rdata)

/-- U2, U7: an engine that was never reset cannot be used, and a state with CAUSE = 7 faults: every
transaction on either, and an edge that presents a request to the first, ends in a fault (log entries 7
and 9). -/
def Obligations.UnusableStatesFault : Prop :=
  (∀ (q : Request) (s : State), s.phase = .unreset →
    perform q s = .fault .usedBeforeReset ∧ ∀ i, exec i s = .fault .usedBeforeReset) ∧
  (∀ (s : State) (pins : PinSample), s.phase = .unreset → s.nextInput = .edge pins →
    pins.rstN = true → pins.reqValid = true → step s = .fault .usedBeforeReset) ∧
  (∀ (q : Request) (s : State), s.phase ≠ .unreset → s.cause = 7#3 →
    perform q s = .fault .reservedCause ∧ ∀ i, exec i s = .fault .reservedCause)

/-! ## Invariants and whole-machine rules -/

/-- R22, R23: only INIT, the absorbs and reset write ACC or COUNT: at a rising edge that changes either,
the engine is reset or completes one of those transactions. That they change at the very edge that
completes the transaction is the model's choice (log entry 5, with log entry 1); a loss of power is no
rising edge (log entry 8). That ACC and COUNT of an engine never reset, which R181 leaves unspecified,
stay from edge to edge is the model's too (log entry 7). -/
def Obligations.OnlyHashCommandsWriteAcc : Prop :=
  ∀ (s t : State) (pins : PinSample), s.nextInput = .edge pins → step s = .next t →
    (t.acc ≠ s.acc ∨ t.count ≠ s.count) →
    (pins.rstN = false ∧ t.acc = 0x811c9dc5 ∧ t.count = 0) ∨
    ∃ q, s.CompletesNow q ∧
      ((decode q = .ok (.wrCtrl true) ∧ t.acc = 0x811c9dc5 ∧ t.count = 0) ∨
       (∃ b, decode q = .ok (.wrData8 b) ∧ t.acc = fnvStep s.acc b ∧ t.count = s.count + 1) ∨
       (∃ w, decode q = .ok (.wrData32 w) ∧ t.acc = fnvFold s.acc (dataBytes w) ∧
          t.count = s.count + 4))

/-- The invariant holds right after reset and at power-up, whatever is scheduled (R24, R182), and
whatever the registers and OUTSTANDING hold at power-up (log entry 7). That no response is stored at
power-up is the model's (log entry 7). -/
def Obligations.InvariantAtResetAndPowerUp : Prop :=
  ∀ inputs : List Input,
    State.Inv { State.reset with inputs := inputs } ∧
    State.Inv { State.powerUp with inputs := inputs }

/-- Every step keeps the invariant: CAUSE is 0 exactly when ERR = 0 and never 7 (R24, R131), the reset
values hold throughout reset (R182), a response cycle has no transaction outstanding and an error
response carries 0 (R33, R83), and a wait stays inside its latency (R187, log entry 4). Power loss, as
log entry 8 models it, keeps it too. That no response is stored before the first reset, where
OUTSTANDING and the registers are free values, is the model's (log entry 7). -/
def Obligations.StepKeepsTheInvariant : Prop :=
  ∀ s t : State, s.Inv → step s = .next t → t.Inv

/-- R150, R151, U7: on every reachable state a step either goes on or faults because an engine that was
never reset is asked for a transaction (log entry 7); it never finds CAUSE = 7 (log entry 9) and never
refuses an instruction. -/
def Obligations.ReachableStatesOnlyFaultBeforeReset : Prop :=
  ∀ s : State, Reachable s →
    (∃ t, step s = .next t) ∨
    (step s = .fault .usedBeforeReset ∧ s.phase = .unreset ∧
      ∃ pins, s.nextInput = .edge pins ∧ pins.rstN = true ∧ pins.reqValid = true)
end

