-- ==== Sys2Proof/Laws/Decode.lean ====
section
/-! SUPPORT. The bits of a request word, and how the decoder's two halves fit together (R80, R86). -/

namespace Sys2Proof

/-- Bit by bit, a request word is its four fields (R80). -/
theorem Request.toWord_getLsbD (q : Request) (k : Nat) :
    q.toWord.getLsbD k =
      if k < 32 then q.wdata.getLsbD k
      else if k < 37 then q.addr.getLsbD (k - 32)
      else if k < 39 then q.size.getLsbD (k - 37)
      else (k == 39 && q.we) := by
  unfold Request.toWord
  simp only [BitVec.getLsbD_append, BitVec.getLsbD_ofBool]
  by_cases h1 : k < 32
  · simp [h1]
  · by_cases h2 : k < 37
    · have : k - 32 < 5 := by omega
      simp [h1, h2, this]
    · have h3 : ¬ k - 32 < 5 := by omega
      have e : k - 32 - 5 = k - 37 := by omega
      by_cases h4 : k < 39
      · have : k - 37 < 2 := by omega
        simp [h1, h2, h3, h4, e, this]
      · have h5 : ¬ k - 37 < 2 := by omega
        have h6 : (k - 37 - 2 = 0) = (k = 39) := by simp; omega
        simp only [h1, h2, h3, h4, e, h5, if_false, h6]
        rw [Bool.beq_eq_decide_eq]

/-- A request with no cause selects a row: the decoder's last arm is never reached (R86). -/
theorem selected_of_cause_eq_none {q : Request} (h : cause q = none) : ∃ i, selected q = some i := by
  have slots : ∀ v : BitVec 3,
      v = 0 ∨ v = 1 ∨ v = 2 ∨ v = 3 ∨ v = 4 ∨ v = 5 ∨ v = 6 ∨ v = 7 := by decide
  unfold cause at h
  unfold selected
  by_cases hsize : q.size = wordSize
  swap; · simp [hsize] at h
  by_cases hlane : q.lane = 0#2
  swap; · simp [hsize, hlane] at h
  generalize q.slot = v at h ⊢
  rcases slots v with rfl | rfl | rfl | rfl | rfl | rfl | rfl | rfl <;>
    cases hw : q.we <;> simp_all

/-- The decoder accepts exactly the requests without a cause, and then answers the selected row. -/
theorem decode_eq_ok_iff (q : Request) (i : Instr) :
    decode q = .ok i ↔ cause q = none ∧ selected q = some i := by
  unfold decode
  cases hc : cause q with
  | some c => simp
  | none =>
    obtain ⟨j, hj⟩ := selected_of_cause_eq_none hc
    simp [hj]

/-- The decoder refuses a request by the name of its cause (R87). -/
theorem decode_eq_error_iff (q : Request) (c : AccessCause) :
    decode q = .error c ↔ cause q = some c := by
  unfold decode
  cases hc : cause q with
  | some c' => simp
  | none =>
    obtain ⟨j, hj⟩ := selected_of_cause_eq_none hc
    simp [hj]

/-- Which requests are legal, and what each stands for: the opcode map read off the decoder (R81, R84). -/
theorem decode_eq_ok_cases (q : Request) (i : Instr) : decode q = .ok i ↔
   q.size = 2#2 ∧ (
     (q.we = false ∧ q.addr = 0x00#5 ∧ i = .rdId) ∨
     (q.we = true ∧ q.addr = 0x04#5 ∧ q.wdata.extractLsb' 1 31 = 0#31 ∧
       i = .wrCtrl (q.wdata.getLsbD 0)) ∨
     (q.we = false ∧ q.addr = 0x08#5 ∧ i = .rdStatus) ∨
     (q.we = true ∧ q.addr = 0x08#5 ∧ q.wdata.extractLsb' 1 31 = 0#31 ∧
       i = .wrStatus (q.wdata.getLsbD 0)) ∨
     (q.we = true ∧ q.addr = 0x0C#5 ∧ q.wdata.extractLsb' 8 24 = 0#24 ∧
       i = .wrData8 (q.wdata.extractLsb' 0 8)) ∨
     (q.we = true ∧ q.addr = 0x10#5 ∧ i = .wrData32 q.wdata) ∨
     (q.we = false ∧ q.addr = 0x14#5 ∧ i = .rdResult) ∨
     (q.we = false ∧ q.addr = 0x18#5 ∧ i = .rdCount)) := by
  rw [decode_eq_ok_iff]
  obtain ⟨we, size, addr, wdata⟩ := q
  simp only [cause, selected, Request.slot, Request.lane, wordSize]
  by_cases hsize : size = 2#2
  swap; · simp [hsize]
  subst hsize
  obtain ⟨k, hk, rfl⟩ : ∃ k < 32, addr = BitVec.ofNat 5 k := ⟨addr.toNat, addr.isLt, by simp⟩
  cases we <;> interval_cases k <;> simp [eq_comm]

theorem Request.sampled_of_write {q : Request} (h : q.we = true) : q.sampled = q := by
  cases q; simp_all [Request.sampled]

theorem Request.sampled_of_read {q : Request} (h : q.we = false) :
    q.sampled = { q with wdata := 0 } := by simp [Request.sampled, h]

theorem cause_sampled (q : Request) : cause q.sampled = cause q := by
  cases h : q.we with
  | true => rw [Request.sampled_of_write h]
  | false => simp [Request.sampled_of_read h, cause, Request.slot, Request.lane, h]

theorem selected_sampled (q : Request) : selected q.sampled = selected q := by
  cases h : q.we with
  | true => rw [Request.sampled_of_write h]
  | false =>
    have hslot : q.sampled.slot = q.slot := rfl
    have hwe : q.sampled.we = q.we := rfl
    unfold selected
    rw [hslot, hwe, h]
    rcases q.slot.toNat with _ | _ | _ | _ | _ | _ | _ | n <;> rfl

/-- A request decodes as what the engine keeps of it (R35). -/
theorem decode_sampled (q : Request) : decode q.sampled = decode q := by
  unfold decode; rw [cause_sampled, selected_sampled]

end Sys2Proof
end

