-- ==== Sys2Proof/Laws/State.lean ====
section
/-! SUPPORT. One lemma per field per state update, so that no proof unfolds a record update. -/

namespace Sys2Proof.Machine

/-! `State.respond` -/

@[simp] theorem State.respond_acc (s : State) (e : Bool) (v : Word) :
    (s.respond e v).acc = s.acc := rfl
@[simp] theorem State.respond_count (s : State) (e : Bool) (v : Word) :
    (s.respond e v).count = s.count := rfl
@[simp] theorem State.respond_err (s : State) (e : Bool) (v : Word) :
    (s.respond e v).err = s.err := rfl
@[simp] theorem State.respond_cause (s : State) (e : Bool) (v : Word) :
    (s.respond e v).cause = s.cause := rfl
@[simp] theorem State.respond_outstanding (s : State) (e : Bool) (v : Word) :
    (s.respond e v).outstanding = none := rfl
@[simp] theorem State.respond_response (s : State) (e : Bool) (v : Word) :
    (s.respond e v).response = some ⟨e, v⟩ := rfl
@[simp] theorem State.respond_phase (s : State) (e : Bool) (v : Word) :
    (s.respond e v).phase = s.phase := rfl
@[simp] theorem State.respond_inputs (s : State) (e : Bool) (v : Word) :
    (s.respond e v).inputs = s.inputs := rfl
@[simp] theorem State.respond_draws (s : State) (e : Bool) (v : Word) :
    (s.respond e v).draws = s.draws := rfl

/-! `State.initialise` -/

@[simp] theorem State.initialise_acc (s : State) :
    s.initialise.acc = Config.basis := rfl
@[simp] theorem State.initialise_count (s : State) :
    s.initialise.count = 0 := rfl
@[simp] theorem State.initialise_err (s : State) :
    s.initialise.err = s.err := rfl
@[simp] theorem State.initialise_cause (s : State) :
    s.initialise.cause = s.cause := rfl
@[simp] theorem State.initialise_outstanding (s : State) :
    s.initialise.outstanding = s.outstanding := rfl
@[simp] theorem State.initialise_response (s : State) :
    s.initialise.response = s.response := rfl
@[simp] theorem State.initialise_phase (s : State) :
    s.initialise.phase = s.phase := rfl
@[simp] theorem State.initialise_inputs (s : State) :
    s.initialise.inputs = s.inputs := rfl
@[simp] theorem State.initialise_draws (s : State) :
    s.initialise.draws = s.draws := rfl

/-! `State.absorb` -/

@[simp] theorem State.absorb_acc (s : State) (bs : List Byte) :
    (s.absorb bs).acc = fnvFold s.acc bs := rfl
@[simp] theorem State.absorb_count (s : State) (bs : List Byte) :
    (s.absorb bs).count = s.count + BitVec.ofNat 32 bs.length := rfl
@[simp] theorem State.absorb_err (s : State) (bs : List Byte) :
    (s.absorb bs).err = s.err := rfl
@[simp] theorem State.absorb_cause (s : State) (bs : List Byte) :
    (s.absorb bs).cause = s.cause := rfl
@[simp] theorem State.absorb_outstanding (s : State) (bs : List Byte) :
    (s.absorb bs).outstanding = s.outstanding := rfl
@[simp] theorem State.absorb_response (s : State) (bs : List Byte) :
    (s.absorb bs).response = s.response := rfl
@[simp] theorem State.absorb_phase (s : State) (bs : List Byte) :
    (s.absorb bs).phase = s.phase := rfl
@[simp] theorem State.absorb_inputs (s : State) (bs : List Byte) :
    (s.absorb bs).inputs = s.inputs := rfl
@[simp] theorem State.absorb_draws (s : State) (bs : List Byte) :
    (s.absorb bs).draws = s.draws := rfl

/-! `State.clearLog` -/

@[simp] theorem State.clearLog_acc (s : State) :
    s.clearLog.acc = s.acc := rfl
@[simp] theorem State.clearLog_count (s : State) :
    s.clearLog.count = s.count := rfl
@[simp] theorem State.clearLog_err (s : State) :
    s.clearLog.err = false := rfl
@[simp] theorem State.clearLog_cause (s : State) :
    s.clearLog.cause = 0 := rfl
@[simp] theorem State.clearLog_outstanding (s : State) :
    s.clearLog.outstanding = s.outstanding := rfl
@[simp] theorem State.clearLog_response (s : State) :
    s.clearLog.response = s.response := rfl
@[simp] theorem State.clearLog_phase (s : State) :
    s.clearLog.phase = s.phase := rfl
@[simp] theorem State.clearLog_inputs (s : State) :
    s.clearLog.inputs = s.inputs := rfl
@[simp] theorem State.clearLog_draws (s : State) :
    s.clearLog.draws = s.draws := rfl

/-! `State.resetEdge` -/

@[simp] theorem State.resetEdge_acc (s : State) :
    s.resetEdge.acc = Config.basis := rfl
@[simp] theorem State.resetEdge_count (s : State) :
    s.resetEdge.count = 0 := rfl
@[simp] theorem State.resetEdge_err (s : State) :
    s.resetEdge.err = false := rfl
@[simp] theorem State.resetEdge_cause (s : State) :
    s.resetEdge.cause = 0 := rfl
@[simp] theorem State.resetEdge_outstanding (s : State) :
    s.resetEdge.outstanding = none := rfl
@[simp] theorem State.resetEdge_response (s : State) :
    s.resetEdge.response = none := rfl
@[simp] theorem State.resetEdge_phase (s : State) :
    s.resetEdge.phase = .inReset := rfl
@[simp] theorem State.resetEdge_inputs (s : State) :
    s.resetEdge.inputs = s.inputs := rfl
@[simp] theorem State.resetEdge_draws (s : State) :
    s.resetEdge.draws = s.draws := rfl

/-! `State.releaseReset` -/

@[simp] theorem State.releaseReset_acc (s : State) :
    s.releaseReset.acc = s.acc := rfl
@[simp] theorem State.releaseReset_count (s : State) :
    s.releaseReset.count = s.count := rfl
@[simp] theorem State.releaseReset_err (s : State) :
    s.releaseReset.err = s.err := rfl
@[simp] theorem State.releaseReset_cause (s : State) :
    s.releaseReset.cause = s.cause := rfl
@[simp] theorem State.releaseReset_outstanding (s : State) :
    s.releaseReset.outstanding = s.outstanding := rfl
@[simp] theorem State.releaseReset_response (s : State) :
    s.releaseReset.response = none := rfl
@[simp] theorem State.releaseReset_phase (s : State) :
    s.releaseReset.phase = .running := rfl
@[simp] theorem State.releaseReset_inputs (s : State) :
    s.releaseReset.inputs = s.inputs := rfl
@[simp] theorem State.releaseReset_draws (s : State) :
    s.releaseReset.draws = s.draws := rfl

/-! `State.losePower` -/

@[simp] theorem State.losePower_acc (s : State) :
    s.losePower.acc = Config.powerUpAcc s.draws := rfl
@[simp] theorem State.losePower_count (s : State) :
    s.losePower.count = Config.powerUpCount s.draws := rfl
@[simp] theorem State.losePower_err (s : State) :
    s.losePower.err = Config.powerUpErr s.draws := rfl
@[simp] theorem State.losePower_cause (s : State) :
    s.losePower.cause = Config.powerUpCause s.draws := rfl
@[simp] theorem State.losePower_outstanding (s : State) :
    s.losePower.outstanding = powerUpFlight s.draws := rfl
@[simp] theorem State.losePower_response (s : State) :
    s.losePower.response = none := rfl
@[simp] theorem State.losePower_phase (s : State) :
    s.losePower.phase = .unreset := rfl
@[simp] theorem State.losePower_inputs (s : State) :
    s.losePower.inputs = s.inputs := rfl
@[simp] theorem State.losePower_draws (s : State) :
    s.losePower.draws = s.draws := rfl

/-! `State.accept` -/

@[simp] theorem State.accept_acc (s : State) (q : Request) :
    (s.accept q).acc = s.acc := rfl
@[simp] theorem State.accept_count (s : State) (q : Request) :
    (s.accept q).count = s.count := rfl
@[simp] theorem State.accept_err (s : State) (q : Request) :
    (s.accept q).err = s.err := rfl
@[simp] theorem State.accept_cause (s : State) (q : Request) :
    (s.accept q).cause = s.cause := rfl
@[simp] theorem State.accept_outstanding (s : State) (q : Request) :
    (s.accept q).outstanding = some ⟨q.sampled, responseDelay q s.draws - 1⟩ := rfl
@[simp] theorem State.accept_response (s : State) (q : Request) :
    (s.accept q).response = none := rfl
@[simp] theorem State.accept_phase (s : State) (q : Request) :
    (s.accept q).phase = s.phase := rfl
@[simp] theorem State.accept_inputs (s : State) (q : Request) :
    (s.accept q).inputs = s.inputs := rfl
@[simp] theorem State.accept_draws (s : State) (q : Request) :
    (s.accept q).draws = s.draws := rfl

/-! `State.idleEdge` -/

@[simp] theorem State.idleEdge_acc (s : State) :
    s.idleEdge.acc = s.acc := rfl
@[simp] theorem State.idleEdge_count (s : State) :
    s.idleEdge.count = s.count := rfl
@[simp] theorem State.idleEdge_err (s : State) :
    s.idleEdge.err = s.err := rfl
@[simp] theorem State.idleEdge_cause (s : State) :
    s.idleEdge.cause = s.cause := rfl
@[simp] theorem State.idleEdge_outstanding (s : State) :
    s.idleEdge.outstanding = s.outstanding := rfl
@[simp] theorem State.idleEdge_response (s : State) :
    s.idleEdge.response = none := rfl
@[simp] theorem State.idleEdge_phase (s : State) :
    s.idleEdge.phase = s.phase := rfl
@[simp] theorem State.idleEdge_inputs (s : State) :
    s.idleEdge.inputs = s.inputs := rfl
@[simp] theorem State.idleEdge_draws (s : State) :
    s.idleEdge.draws = s.draws := rfl

/-! `State.waitEdge` -/

@[simp] theorem State.waitEdge_acc (s : State) (q : Request) (n : Nat) :
    (s.waitEdge q n).acc = s.acc := rfl
@[simp] theorem State.waitEdge_count (s : State) (q : Request) (n : Nat) :
    (s.waitEdge q n).count = s.count := rfl
@[simp] theorem State.waitEdge_err (s : State) (q : Request) (n : Nat) :
    (s.waitEdge q n).err = s.err := rfl
@[simp] theorem State.waitEdge_cause (s : State) (q : Request) (n : Nat) :
    (s.waitEdge q n).cause = s.cause := rfl
@[simp] theorem State.waitEdge_outstanding (s : State) (q : Request) (n : Nat) :
    (s.waitEdge q n).outstanding = some ⟨q, n⟩ := rfl
@[simp] theorem State.waitEdge_response (s : State) (q : Request) (n : Nat) :
    (s.waitEdge q n).response = none := rfl
@[simp] theorem State.waitEdge_phase (s : State) (q : Request) (n : Nat) :
    (s.waitEdge q n).phase = s.phase := rfl
@[simp] theorem State.waitEdge_inputs (s : State) (q : Request) (n : Nat) :
    (s.waitEdge q n).inputs = s.inputs := rfl
@[simp] theorem State.waitEdge_draws (s : State) (q : Request) (n : Nat) :
    (s.waitEdge q n).draws = s.draws := rfl

/-! `State.taken` -/

@[simp] theorem State.taken_acc (s : State) :
    s.taken.acc = s.acc := rfl
@[simp] theorem State.taken_count (s : State) :
    s.taken.count = s.count := rfl
@[simp] theorem State.taken_err (s : State) :
    s.taken.err = s.err := rfl
@[simp] theorem State.taken_cause (s : State) :
    s.taken.cause = s.cause := rfl
@[simp] theorem State.taken_outstanding (s : State) :
    s.taken.outstanding = s.outstanding := rfl
@[simp] theorem State.taken_response (s : State) :
    s.taken.response = s.response := rfl
@[simp] theorem State.taken_phase (s : State) :
    s.taken.phase = s.phase := rfl
@[simp] theorem State.taken_inputs (s : State) :
    s.taken.inputs = s.inputs.tail := rfl
@[simp] theorem State.taken_draws (s : State) :
    s.taken.draws = s.draws + 1 := rfl

/-! `State.logError`: the first error is kept (R154). -/

@[simp] theorem State.logError_acc (s : State) (code : BitVec 3) :
    (s.logError code).acc = s.acc := by
  unfold State.logError; split <;> rfl
@[simp] theorem State.logError_count (s : State) (code : BitVec 3) :
    (s.logError code).count = s.count := by
  unfold State.logError; split <;> rfl
@[simp] theorem State.logError_err (s : State) (code : BitVec 3) :
    (s.logError code).err = true := by
  unfold State.logError; split <;> simp_all
@[simp] theorem State.logError_cause (s : State) (code : BitVec 3) :
    (s.logError code).cause = if s.err then s.cause else code := by
  unfold State.logError; split <;> simp_all
@[simp] theorem State.logError_outstanding (s : State) (code : BitVec 3) :
    (s.logError code).outstanding = s.outstanding := by
  unfold State.logError; split <;> rfl
@[simp] theorem State.logError_response (s : State) (code : BitVec 3) :
    (s.logError code).response = s.response := by
  unfold State.logError; split <;> rfl
@[simp] theorem State.logError_phase (s : State) (code : BitVec 3) :
    (s.logError code).phase = s.phase := by
  unfold State.logError; split <;> rfl
@[simp] theorem State.logError_inputs (s : State) (code : BitVec 3) :
    (s.logError code).inputs = s.inputs := by
  unfold State.logError; split <;> rfl
@[simp] theorem State.logError_draws (s : State) (code : BitVec 3) :
    (s.logError code).draws = s.draws := by
  unfold State.logError; split <;> rfl

end Sys2Proof.Machine
end

