-- ==== Sys2Proof/Laws/Ops.lean ====
section
/-! SUPPORT. One lemma per shared operation that says all it can do: what a later proof cites instead of
unfolding it. -/

namespace Sys2Proof.Machine

/-! ## Which states can perform a transaction -/

theorem serviceFault_eq_none_iff (s : State) : s.serviceFault = none ↔ s.InService := by
  unfold State.serviceFault State.InService Config.reservedCause
  by_cases hp : s.phase = .unreset
  · simp [hp]
  · by_cases hc : s.cause = 7#3 <;> simp [hp, hc]

theorem serviceFault_of_unreset {s : State} (h : s.phase = .unreset) :
    s.serviceFault = some .usedBeforeReset := by simp [State.serviceFault, h]

theorem serviceFault_of_reserved {s : State} (h : s.phase ≠ .unreset) (hc : s.cause = 7#3) :
    s.serviceFault = some .reservedCause := by
  simp [State.serviceFault, h, hc, Config.reservedCause]

/-- A transaction is performed exactly on the states in service. -/
theorem serve_eq_next_iff (s t u : State) :
    serve s t = .next u ↔ s.InService ∧ u = t := by
  unfold serve
  cases h : s.serviceFault with
  | none =>
    have hs : s.InService := (serviceFault_eq_none_iff s).1 h
    simp only [Host.Outcome.next.injEq]
    exact ⟨fun e => ⟨hs, e.symm⟩, fun e => e.2.symm⟩
  | some f => simp [← serviceFault_eq_none_iff, h]

theorem serve_of_inService {s : State} (h : s.InService) (t : State) : serve s t = .next t :=
  (serve_eq_next_iff s t t).2 ⟨h, rfl⟩

theorem serve_of_fault {s : State} {f : Fault} (h : s.serviceFault = some f) (t : State) :
    serve s t = .fault f := by simp [serve, h]

theorem serve_ne_refused (s t : State) (r : Refusal) : serve s t ≠ .refused r := by
  unfold serve; split <;> simp

/-! ## The meanings -/

/-- The state a transaction leaves: its register effect, and its response. -/
def afterInstr (i : Instr) (s : State) : State :=
  match i with
  | .rdId => s.respond false Config.idValue
  | .wrCtrl i => (if i then s.initialise else s).respond false 0
  | .rdStatus => s.respond false (statusWord s.err s.cause)
  | .wrStatus c => (if c then s.clearLog else s).respond false 0
  | .wrData8 b => (s.absorb [b]).respond false 0
  | .wrData32 w => (s.absorb (dataBytes w)).respond false 0
  | .rdResult => s.respond false s.acc
  | .rdCount => s.respond false s.count

/-- Every meaning is its effect, performed where the state can perform one. -/
theorem exec_eq_serve (i : Instr) (s : State) : exec i s = serve s (afterInstr i s) := by
  cases i with
  | rdId => exact rfl
  | wrCtrl i => exact rfl
  | rdStatus => exact rfl
  | wrStatus c => exact rfl
  | wrData8 b => exact rfl
  | wrData32 w => exact rfl
  | rdResult => exact rfl
  | rdCount => exact rfl

theorem exec_of_inService {s : State} (h : s.InService) (i : Instr) :
    exec i s = .next (afterInstr i s) := by
  rw [exec_eq_serve, serve_of_inService h]

/-- If a transaction answers a next state, the state was in service and this is its effect. -/
theorem exec_eq_next_iff (i : Instr) (s t : State) :
    exec i s = .next t ↔ s.InService ∧ t = afterInstr i s := by
  rw [exec_eq_serve, serve_eq_next_iff]

theorem exec_of_fault {s : State} {f : Fault} (h : s.serviceFault = some f) (i : Instr) :
    exec i s = .fault f := by rw [exec_eq_serve, serve_of_fault h]

theorem afterInstr_phase (i : Instr) (s : State) : (afterInstr i s).phase = s.phase := by
  cases i with
  | wrCtrl i => cases i <;> simp [afterInstr]
  | wrStatus c => cases c <;> simp [afterInstr]
  | _ => simp [afterInstr]

theorem afterInstr_inputs (i : Instr) (s : State) : (afterInstr i s).inputs = s.inputs := by
  cases i with
  | wrCtrl i => cases i <;> simp [afterInstr]
  | wrStatus c => cases c <;> simp [afterInstr]
  | _ => simp [afterInstr]

theorem afterInstr_draws (i : Instr) (s : State) : (afterInstr i s).draws = s.draws := by
  cases i with
  | wrCtrl i => cases i <;> simp [afterInstr]
  | wrStatus c => cases c <;> simp [afterInstr]
  | _ => simp [afterInstr]

theorem afterInstr_outstanding (i : Instr) (s : State) : (afterInstr i s).outstanding = none := by
  cases i <;> simp [afterInstr]

/-- A legal transaction answers err = 0. -/
theorem afterInstr_response (i : Instr) (s : State) :
    ∃ v, (afterInstr i s).response = some ⟨false, v⟩ := by
  cases i <;> simp [afterInstr]

/-! ## The access error -/

theorem accessError_of_inService {s : State} (h : s.InService) (c : AccessCause) :
    accessError c s = .next ((s.logError c.code).respond true 0) := serve_of_inService h _

theorem accessError_eq_next_iff (c : AccessCause) (s t : State) :
    accessError c s = .next t ↔ s.InService ∧ t = (s.logError c.code).respond true 0 :=
  serve_eq_next_iff _ _ _

/-! ## A whole transaction -/

/-- The state a request leaves, legal or refused. -/
def afterRequest (q : Request) (s : State) : State :=
  match decode q with
  | .ok i => afterInstr i s
  | .error c => (s.logError c.code).respond true 0

/-- Every request is its effect, performed where the state can perform one. -/
theorem perform_eq_serve (q : Request) (s : State) : perform q s = serve s (afterRequest q s) := by
  unfold perform afterRequest
  cases decode q with
  | ok i => exact exec_eq_serve i s
  | error c => rfl

theorem perform_of_inService {s : State} (h : s.InService) (q : Request) :
    perform q s = .next (afterRequest q s) := by
  rw [perform_eq_serve, serve_of_inService h]

/-- If a request answers a next state, the state was in service and this is its effect. -/
theorem perform_eq_next_iff (q : Request) (s t : State) :
    perform q s = .next t ↔ s.InService ∧ t = afterRequest q s := by
  rw [perform_eq_serve, serve_eq_next_iff]

theorem perform_of_fault {s : State} {f : Fault} (h : s.serviceFault = some f) (q : Request) :
    perform q s = .fault f := by rw [perform_eq_serve, serve_of_fault h]

/-- A request does what the engine keeps of it does (R35). -/
theorem perform_sampled (q : Request) (s : State) : perform q.sampled s = perform q s := by
  simp only [perform, decode_sampled]

theorem afterRequest_phase (q : Request) (s : State) : (afterRequest q s).phase = s.phase := by
  unfold afterRequest; split
  · exact afterInstr_phase _ _
  · simp

theorem afterRequest_inputs (q : Request) (s : State) : (afterRequest q s).inputs = s.inputs := by
  unfold afterRequest; split
  · exact afterInstr_inputs _ _
  · simp

theorem afterRequest_draws (q : Request) (s : State) : (afterRequest q s).draws = s.draws := by
  unfold afterRequest; split
  · exact afterInstr_draws _ _
  · simp

theorem afterRequest_outstanding (q : Request) (s : State) :
    (afterRequest q s).outstanding = none := by
  unfold afterRequest; split
  · exact afterInstr_outstanding _ _
  · simp

/-! ## The step -/

/-- What a step at an edge without reset does, by phase and by what is outstanding: the one inversion
lemma of the running engine. -/
theorem runningEdge_cases {pins : PinSample} {s t : State} (h : runningEdge pins s = .next t) :
    s.cause ≠ 7#3 ∧
    ((∃ q, s.outstanding = some ⟨q, 0⟩ ∧ perform q s = .next t) ∨
     (∃ q n, s.outstanding = some ⟨q, n + 1⟩ ∧ t = s.waitEdge q n) ∨
     (s.outstanding = none ∧ pins.reqValid = true ∧ t = s.accept pins.request) ∨
     (s.outstanding = none ∧ pins.reqValid = false ∧ t = s.idleEdge)) := by
  unfold runningEdge at h
  split at h
  · cases h
  · rename_i hc
    refine ⟨hc, ?_⟩
    match ho : s.outstanding with
    | some ⟨q, 0⟩ => rw [ho] at h; exact .inl ⟨q, rfl, h⟩
    | some ⟨q, n + 1⟩ => rw [ho] at h; cases h; exact .inr (.inl ⟨q, n, rfl, rfl⟩)
    | none =>
      rw [ho] at h
      cases hv : pins.reqValid <;> simp only [hv] at h <;> cases h
      · exact .inr (.inr (.inr ⟨rfl, rfl, rfl⟩))
      · exact .inr (.inr (.inl ⟨rfl, rfl, rfl⟩))

/-- Everything a step that answers a next state can have done. -/
theorem step_cases {s t : State} (h : step s = .next t) :
    (s.nextInput = .powerLoss ∧ t = s.taken.losePower) ∨
    (∃ pins, s.nextInput = .edge pins ∧
      ((pins.rstN = false ∧ t = s.taken.resetEdge) ∨
       (pins.rstN = true ∧
         ((s.phase = .unreset ∧ pins.reqValid = false ∧ t = s.taken) ∨
          (s.phase = .inReset ∧ t = s.taken.releaseReset) ∨
          (s.phase = .running ∧ runningEdge pins s.taken = .next t))))) := by
  unfold step at h
  cases hi : s.nextInput with
  | powerLoss => rw [hi] at h; cases h; exact .inl ⟨rfl, rfl⟩
  | edge pins =>
    rw [hi] at h
    refine .inr ⟨pins, rfl, ?_⟩
    simp only [applyInput, risingEdge, State.taken_phase] at h
    cases hr : pins.rstN with
    | false => rw [hr] at h; cases h; exact .inl ⟨rfl, rfl⟩
    | true =>
      rw [hr] at h
      refine .inr ⟨rfl, ?_⟩
      cases hp : s.phase <;> simp only [hp, if_true] at h
      · cases hv : pins.reqValid <;> simp only [hv] at h <;> cases h
        exact .inl ⟨rfl, rfl, rfl⟩
      · cases h; exact .inr (.inl ⟨rfl, rfl⟩)
      · exact .inr (.inr ⟨rfl, h⟩)

/-! ## Sequences -/

@[simp] theorem andThen_next {α β : Type} (a : α) (f : α → Host.Outcome β Fault Refusal) :
    andThen (.next a) f = f a := rfl

/-- Going on answers a next state exactly when both parts do. -/
theorem andThen_eq_next_iff {α β : Type} (o : Host.Outcome α Fault Refusal)
    (f : α → Host.Outcome β Fault Refusal) (b : β) :
    andThen o f = .next b ↔ ∃ a, o = .next a ∧ f a = .next b := by
  cases o <;> simp [andThen]

@[simp] theorem serveAll_nil (s : State) : serveAll [] s = .next (s, []) := rfl

/-- A sequence that begins on a state in service performs its first request and goes on. -/
theorem serveAll_cons {s : State} (h : s.InService) (q : Request) (qs : List Request) :
    serveAll (q :: qs) s =
      andThen (serveAll qs (afterRequest q s)) fun p =>
        .next (p.1, (afterRequest q s).response.toList ++ p.2) := by
  simp only [serveAll, perform_of_inService h, andThen_next]

@[simp] theorem runSteps_zero (s : State) : runSteps 0 s = .next s := rfl

theorem runSteps_succ (n : Nat) (s : State) : runSteps (n + 1) s = andThen (step s) (runSteps n) :=
  rfl

end Sys2Proof.Machine
end

