-- ==== Sys2Proof/Laws/PerInstr.lean ====
section
/-! SUPPORT. The family stated for every instruction: its request word is one its row of the opcode map
selects (R81). One lemma per constructor. -/

namespace Sys2Proof.Laws.EncodingSelectsItsRow

/-- The request word of the instruction agrees with its row's match under its row's mask (R81). -/
def Statement (i : Instr) : Prop := (rowOf i.kind).selects (encode i) = true

theorem rdId : Statement .rdId := by unfold Statement; decide

theorem wrCtrl (i : Bool) : Statement (.wrCtrl i) := by unfold Statement; cases i <;> decide

theorem rdStatus : Statement .rdStatus := by unfold Statement; decide

theorem wrStatus (c : Bool) : Statement (.wrStatus c) := by unfold Statement; cases c <;> decide

theorem wrData8 (b : Byte) : Statement (.wrData8 b) := by
  simp only [Statement, Row.selects, rowOf, Instr.kind, encode, Instr.toRequest, writeRequest,
    Reg.offset, wordSize, beq_iff_eq]
  apply BitVec.eq_of_getLsbD_eq
  intro k hk
  rw [BitVec.getLsbD_and, Request.toWord_getLsbD]
  interval_cases k <;> simp

theorem wrData32 (w : Word) : Statement (.wrData32 w) := by
  simp only [Statement, Row.selects, rowOf, Instr.kind, encode, Instr.toRequest, writeRequest,
    Reg.offset, wordSize, beq_iff_eq]
  apply BitVec.eq_of_getLsbD_eq
  intro k hk
  rw [BitVec.getLsbD_and, Request.toWord_getLsbD]
  interval_cases k <;> simp

theorem rdResult : Statement .rdResult := by unfold Statement; decide

theorem rdCount : Statement .rdCount := by unfold Statement; decide

end Sys2Proof.Laws.EncodingSelectsItsRow
end

