-- ==== Sys2Proof/Tests/Slice0.lean ====
section
/-! SUPPORT. Tests of the model against the spec's own examples (95_test_vectors.md and the worked
examples of the rules), and a witness for the hypotheses of each statement. -/

namespace Sys2Proof.Tests

open Sys2Proof.Machine

/-! ## Helpers -/

/-- The state with the four registers of R20, as 95_test_vectors.md writes it: ACC, COUNT, ERR, CAUSE. -/
def regState (acc count : Word) (err : Bool) (cause : BitVec 3) : State :=
  { State.reset with acc := acc, count := count, err := err, cause := cause }

/-- What a step leaves: the registers and the response, if it answers a next state. -/
def seen (o : Host.Outcome State Fault Refusal) :
    Option (Word × Word × Bool × BitVec 3 × Option Response) :=
  match o with
  | .next t => some (t.acc, t.count, t.err, t.cause, t.response)
  | .fault _ => none
  | .refused _ => none

/-- One step that performs the request word on the state. -/
def ask (s : State) (word : Nat) : Option (Word × Word × Bool × BitVec 3 × Option Response) :=
  seen (step (s.withFetchWord 40 word))

/-- The responses of a sequence, if it answers a next state. -/
def answers (qs : List (BitVec 40)) (s : State) : Option (List Response) :=
  match serveAll (qs.map Request.ofWord) s with
  | .next p => some p.2
  | .fault _ => none
  | .refused _ => none

/-- An edge that presents a request word. -/
def present (word : BitVec 40) : PinSample := ⟨true, true, Request.ofWord word⟩

/-- An edge with `rst_n` = 0 that presents a request all the same. -/
def resetPins : PinSample := ⟨false, true, Request.ofWord 0xCC00000061⟩

/-! ## WellFormed: each check refuses an ill-formed term -/

theorem test_instr_wellFormed : (Instr.wrData8 0xFF).wellFormed = true := by decide
theorem test_rd_of_write_only_refused : (Stmt.rd .data8).wellFormed = false := by decide
theorem test_wr_of_read_only_refused : (Stmt.wr .result 0).wellFormed = false := by decide
theorem test_wr_immediate_too_large_refused : (Stmt.wr .data32 (2 ^ 32)).wellFormed = false := by decide
theorem test_raw_immediate_too_large_refused :
    (Stmt.wrRaw .word 0x10 (2 ^ 32)).wellFormed = false := by decide
theorem test_wr_reserved_bits_refused : (Stmt.wr .data8 0x161).wellFormed = false := by decide
theorem test_ctrl_reserved_bits_refused : (Stmt.wr .ctrl 2).wellFormed = false := by decide
theorem test_raw_offset_too_large_refused : (Stmt.rdRaw .word 32).wellFormed = false := by decide
theorem test_raw_illegal_accepted : (Stmt.wrRaw .byte 0x0C 0x61).wellFormed = true := by decide

/-! ## Decode: words written out from R80 and R81 -/

theorem test_decode_rdId : decodeWord 0b01000000_00000000_00000000_00000000_00000000 = .ok .rdId := by
  decide
theorem test_decode_wrCtrl :
    decodeWord 0b11000100_00000000_00000000_00000000_00000001 = .ok (.wrCtrl true) := by decide
theorem test_decode_rdStatus :
    decodeWord 0b01001000_11111111_00000000_00000000_00000000 = .ok .rdStatus := by decide
theorem test_decode_wrStatus :
    decodeWord 0b11001000_00000000_00000000_00000000_00000001 = .ok (.wrStatus true) := by decide
theorem test_decode_wrData8 :
    decodeWord 0b11001100_00000000_00000000_00000000_10100101 = .ok (.wrData8 0xA5) := by decide
theorem test_decode_wrData32 :
    decodeWord 0b11010000_00000001_00000010_00000011_10000100 = .ok (.wrData32 0x01020384) := by decide
theorem test_decode_rdResult :
    decodeWord 0b01010100_00000000_00000000_00000000_00000000 = .ok .rdResult := by decide
theorem test_decode_rdCount :
    decodeWord 0b01011000_00000000_00000000_00000000_00000000 = .ok .rdCount := by decide
/-- The table's match of every row, with its operand bits 0 (R81). -/
theorem test_decodeTableWord_rows :
    [0x4000000000, 0xC400000000, 0x4800000000, 0xC800000000, 0xCC00000000, 0xD000000000,
      0x5400000000, 0x5800000000].map (decodeTableWord 40) =
    [some .rdId, some (.wrCtrl false), some .rdStatus, some (.wrStatus false), some (.wrData8 0),
      some (.wrData32 0), some .rdResult, some .rdCount] := by decide
/-- Encodings written in the rules' examples (R108 to R110, R130 to R134). -/
theorem test_encode_examples :
    [Instr.rdId, .wrCtrl true, .rdStatus, .wrStatus true, .wrData8 0x61, .wrData32 0x666F6F62,
      .rdResult, .rdCount].map encode =
    [0x4000000000, 0xC400000001, 0x4800000000, 0xC800000001, 0xCC00000061, 0xD0666F6F62,
      0x5400000000, 0x5800000000] := by decide
/-- T-D8: causes and their priority. -/
theorem test_cause_priority :
    [0x9D00000000, 0x3400000000, 0x5D00000000, 0xC100000000, 0xC2FFFFFFFF, 0xDC00000000, 0xD400000005,
      0x4C00000000, 0x44FFFFFFFF, 0xC400000003, 0xCC00000100, 0xC800000003, 0x40FFFFFFFF].map
      (fun w => causeCode (Request.ofWord w)) = [1, 1, 2, 2, 2, 3, 4, 5, 5, 6, 6, 6, 0] := by decide

/-! ## One step of each transaction: T-D2 to T-D6 -/

theorem test_wrCtrl_init_keeps_error : ask (regState 0xe40c292c 1 true 4) 0xC400000001 =
    some (0x811c9dc5, 0, true, 4, some ⟨false, 0⟩) := by decide
theorem test_wrCtrl_nop : ask (regState 0xe40c292c 1 false 0) 0xC400000000 =
    some (0xe40c292c, 1, false, 0, some ⟨false, 0⟩) := by decide
theorem test_wrData8_ff_zero_extended : ask State.reset 0xCC000000FF =
    some (0x7a0b824e, 1, false, 0, some ⟨false, 0⟩) := by decide
theorem test_wrData8_count_wraps : ask (regState 0x811c9dc5 0xFFFFFFFF false 0) 0xCC00000061 =
    some (0xe40c292c, 0, false, 0, some ⟨false, 0⟩) := by decide
theorem test_wrData32_msb_first : ask State.reset 0xD0666F6F62 =
    some (0x3f5076ef, 4, false, 0, some ⟨false, 0⟩) := by decide
theorem test_wrData32_count_wraps : ask (regState 0x811c9dc5 0xFFFFFFFE false 0) 0xD000000000 =
    some (0x4b95f515, 2, false, 0, some ⟨false, 0⟩) := by decide
theorem test_rdId_ignores_wdata : ask (regState 0xe40c292c 1 true 1) 0x40FFFFFFFF =
    some (0xe40c292c, 1, true, 1, some ⟨false, 0x464E5631⟩) := by decide
theorem test_rdStatus_value : ask (regState 0xe40c292c 1 true 6) 0x4800000000 =
    some (0xe40c292c, 1, true, 6, some ⟨false, 0x0000000D⟩) := by decide
theorem test_rdResult_value : ask (regState 0xbf9cf968 6 false 0) 0x5400000000 =
    some (0xbf9cf968, 6, false, 0, some ⟨false, 0xbf9cf968⟩) := by decide
theorem test_rdCount_value : ask (regState 0xbf9cf968 6 false 0) 0x5800000000 =
    some (0xbf9cf968, 6, false, 0, some ⟨false, 6⟩) := by decide
theorem test_wrStatus_clears : ask (regState 0xe40c292c 1 true 1) 0xC800000001 =
    some (0xe40c292c, 1, false, 0, some ⟨false, 0⟩) := by decide
theorem test_wrStatus_reserved_keeps_first : ask (regState 0xe40c292c 1 true 1) 0xC800000003 =
    some (0xe40c292c, 1, true, 1, some ⟨true, 0⟩) := by decide
theorem test_refused_absorb : ask State.reset 0xCCFFFFFF80 =
    some (0x811c9dc5, 0, true, 6, some ⟨true, 0⟩) := by decide
/-- T-D8: the first of several errors is the one kept. -/
theorem test_first_error_kept :
    answers [0x9D00000000, 0xDC00000000, 0xC400000003, 0x4800000000] State.reset =
    some [⟨true, 0⟩, ⟨true, 0⟩, ⟨true, 0⟩, ⟨false, 3⟩] := by decide
/-- P2: "foobar" hashed with mixed widths. -/
theorem test_hash_foobar :
    answers [0xC400000001, 0xD0666F6F62, 0xCC00000061, 0xCC00000072, 0x5400000000]
      (regState 0x12345678 99 false 0) =
    some [⟨false, 0⟩, ⟨false, 0⟩, ⟨false, 0⟩, ⟨false, 0⟩, ⟨false, 0xbf9cf968⟩] := by decide
/-- R106: the inverse step undoes the last step of "foobar". -/
theorem test_unstep : fnvUnstep 0xbf9cf968 0x72 = 0x39aaa18a := by decide
/-- R105 at x = 0xFFFFFFFF. -/
theorem test_shiftAdd : shiftAdd 0xFFFFFFFF = 0xfefffe6d := by decide

/-! ## Edges: reset, acceptance, power -/

/-- T-D9: one edge with `rst_n` = 0. -/
theorem test_reset_edge :
    seen (step { regState 0x3f5076ef 4 true 5 with inputs := [.edge resetPins] }) =
    some (0x811c9dc5, 0, false, 0, none) := by decide
/-- R181: the edge that releases reset accepts no request. -/
theorem test_release_accepts_nothing :
    (match step { State.reset with phase := .inReset, inputs := [.edge (present 0xCC00000061)] } with
      | .next t => t.outstanding.isNone && t.reqReady && t.phase == .running
      | _ => false) = true := by decide
/-- R32, R33: a presented request is accepted and req_ready falls. -/
theorem test_acceptance :
    (match step { State.reset with inputs := [.edge (present 0xCC00000061)] } with
      | .next t => (t.outstanding.map Flight.request) == some (Request.ofWord 0xCC00000061) &&
          !t.reqReady && !t.rspValid
      | _ => false) = true := by decide
/-- R35: the WDATA of a read is not kept at its acceptance. -/
theorem test_accepted_read_drops_wdata :
    (match step { State.reset with inputs := [.edge (present 0x44FFFFFFFF)] } with
      | .next t => (t.outstanding.map Flight.request) == some (Request.ofWord 0x4400000000)
      | _ => false) = true := by decide
/-- U2: after a loss of power a request faults. -/
theorem test_use_before_reset :
    (match step { State.reset.losePower with inputs := [.edge (present 0x5400000000)] } with
      | .fault f => f == .usedBeforeReset
      | _ => false) = true := by decide

/-! ## Scripts and the container -/

theorem test_parse_rd : parseLine ['r', 'd', ' ', 'I', 'D'] = some ⟨.stmt (.rd .id), .none⟩ := by decide
theorem test_parse_raw_err :
    parseLine ['w', 'r', '.', 'r', 'a', 'w', ' ', 'b', ',', ' ', '0', 'x', '0', 'C', ',', ' ', '9', '7', ' ',
      ';', ' ', 'e', 'r', 'r'] = some ⟨.stmt (.wrRaw .byte 12 97), .err⟩ := by decide
theorem test_parse_hash_string :
    parseLine ['h', 'a', 's', 'h', ' ', '"', 'a', '"'] = some ⟨.pseudo (.hash [0x61]), .none⟩ := by decide
theorem test_parse_note : parseNote [' ', '-', '>', ' ', '0', 'x', '1', 'F'] = .reads 31 := by decide
/-- R91: the expansion of `absorb "foobar"`: one word, then two bytes. -/
theorem test_expand_absorb : expand (.absorb [0x66, 0x6F, 0x6F, 0x62, 0x61, 0x72]) =
    [.wr .data32 0x666F6F62, .wr .data8 0x61, .wr .data8 0x72] := by decide
theorem test_note_agrees : noteAgrees (.reads 0xe40c292c) ⟨false, 0xe40c292c⟩ = true := by decide

/-- A file whose hashed region is all zeros, with T-S9's checksum in its field. -/
def validFile : List Byte := List.replicate 0x30C 0 ++ [0x52, 0xE9, 0x3E, 0xB5]

/-- T-S9: the file verifies as VALID, with a warning of its length. -/
theorem test_valid_file :
    verify validFile = .ok ⟨true, 0x52e93eb5, 0x52e93eb5, .valid⟩ := by decide +kernel
theorem test_truncated_file : verify (List.replicate 0x30F 0) = .error .truncatedFile := by decide +kernel

end Sys2Proof.Tests
end

