-- ==== Sys2Proof/Tests/Witnesses.lean ====
section
/-! SUPPORT. For every statement with hypotheses, a concrete state and operands that meet them together;
for a statement of several clauses, one for each, at a boundary of its range. `witness_<Name>` belongs to
`Obligations.<Name>`. -/

namespace Sys2Proof.Tests

open Sys2Proof.Machine

/-! ## Encoding -/

theorem witness_DecodeOfEncode : (Instr.wrData32 0xFFFFFFFF).wellFormed = true := by decide

theorem witness_EncodeOfDecode :
    (decodeWord 0xCC000000FF = .ok (.wrData8 0xFF) ∧ (0xCC000000FF : BitVec 40).getLsbD 39 = true) ∧
    (decodeWord 0x58FFFFFFFF = .ok .rdCount ∧ (0x58FFFFFFFF : BitVec 40).getLsbD 39 = false) := by
  decide

theorem witness_OpcodeMap :
    rowOf .wrCtrl ∈ opcodeTable ∧
      (0xC400000001 : BitVec 40) &&& (rowOf .wrCtrl).mask = (rowOf .wrCtrl).pattern := by decide

theorem witness_IllegalSpace : cause (Request.ofWord 0xDC00000000) = some .unmapped := by decide

/-! ## The datapath -/

theorem witness_SingleByteSensitivity_bytes : (0x00 : Byte) ≠ 0x01 := by decide

theorem witness_SingleByteSensitivity_file :
    verify validFile = .ok ⟨true, 0x52e93eb5, 0x52e93eb5, .valid⟩ ∧
      0x30B < 0x30C ∧ (0x80 : Byte) ≠ validFile.getD 0x30B 0 := by decide +kernel

/-! ## The transactions -/

/-- The states used below are in service: a fresh one, and one with an error logged. -/
theorem witness_inService :
    State.reset.InService ∧ (regState 0xFFFFFFFF 0xFFFFFFFF true 6).InService := by decide

theorem witness_WrCtrlRule :
    State.reset.InService ∧ (0xC400000001 : BitVec 40) &&& 0xFFFFFFFFFE = 0xC400000000 ∧
    (Request.ofWord 0xC400000002).we = true ∧ (Request.ofWord 0xC400000002).size = 0b10 ∧
    (Request.ofWord 0xC400000002).addr = 0x04 ∧
    (Request.ofWord 0xC400000002).wdata.extractLsb' 1 31 ≠ 0 := by decide

/-- SizeAndAlignmentRefused for each of the slots and directions it is stated of: a byte-sized request,
and a word request one byte off. -/
theorem witness_SizeAndAlignmentRefused :
    [(true, 1), (true, 2), (true, 3), (true, 4), (false, 0), (false, 2), (false, 5), (false, 6)].all
      (fun p : Bool × BitVec 3 =>
        let q : Request := ⟨p.1, 0b00, p.2 ++ (0#2), 0⟩
        let r : Request := ⟨p.1, 0b10, p.2 ++ (1#2), 0⟩
        q.addr.extractLsb' 2 3 == p.2 && q.size != 0b10 &&
        r.addr.extractLsb' 2 3 == p.2 && r.size == 0b10 && r.addr.extractLsb' 0 2 != 0) = true := by
  decide

/-- RefusalKeepsHash for each of the slots and directions it is stated of. -/
theorem witness_RefusalKeepsHash :
    [(true, 1), (true, 2), (true, 3), (true, 4), (false, 2)].all
      (fun p : Bool × BitVec 3 =>
        let q : Request := ⟨p.1, 0b11, p.2 ++ (0#2), 0⟩
        q.we == p.1 && q.addr.extractLsb' 2 3 == p.2 && cause q == some .badSize) = true := by decide

/-- OffsetRefused for the three read-only registers. -/
theorem witness_OffsetRefused :
    [0x00, 0x14, 0x18].all (fun off : BitVec 5 =>
      let q : Request := ⟨true, 0b10, off, 0xFFFFFFFF⟩
      q.we == true && q.size == 0b10 && q.addr == off) = true := by decide

/-- A second INIT, for the clause of two INITs in a row. -/
theorem witness_WrCtrlRule_twice :
    ∃ t u, exec (.wrCtrl true) State.reset = .next t ∧ exec (.wrCtrl true) t = .next u :=
  ⟨_, _, rfl, rfl⟩

theorem witness_WrData8Rule :
    (0xCC000000FF : BitVec 40) &&& 0xFFFFFFFF00 = 0xCC00000000 ∧
    (Request.ofWord 0xCC00000100).we = true ∧ (Request.ofWord 0xCC00000100).size = 0b10 ∧
    (Request.ofWord 0xCC00000100).addr = 0x0C ∧
    (Request.ofWord 0xCC00000100).wdata.extractLsb' 8 24 ≠ 0 ∧
    (regState 0x811c9dc5 0xFFFFFFFF false 0).InService := by decide

theorem witness_WrData32Rule :
    (0xD0FFFFFFFF : BitVec 40) &&& 0xFF00000000 = 0xD000000000 ∧
    (Request.ofWord 0xD0FFFFFFFF).we = true ∧ (Request.ofWord 0xD0FFFFFFFF).size = 0b10 ∧
    (Request.ofWord 0xD0FFFFFFFF).addr = 0x10 ∧
    (regState 0x811c9dc5 0xFFFFFFFE false 0).InService := by decide

theorem witness_WrData32Rule_next : ∃ t, exec (.wrData32 0xFFFFFFFF) State.reset = .next t := ⟨_, rfl⟩

theorem witness_RdStatusRule :
    (regState 0 0 false 0).LogLegal ∧ (regState 0 0 true 1).LogLegal ∧ (regState 0 0 true 6).LogLegal := by
  decide

theorem witness_RdCountRule : cause (Request.ofWord 0xCC00000100) ≠ none := by decide

theorem witness_WrStatusRule :
    (0xC800000001 : BitVec 40) &&& 0xFFFFFFFFFE = 0xC800000000 ∧
    (Request.ofWord 0xC800000003).we = true ∧ (Request.ofWord 0xC800000003).size = 0b10 ∧
    (Request.ofWord 0xC800000003).addr = 0x08 ∧
    (Request.ofWord 0xC800000003).wdata.extractLsb' 1 31 ≠ 0 := by decide

theorem witness_NoOpsChangeNothing :
    Instr.wrCtrl false ∈ [.wrCtrl false, .wrStatus false, .rdId, .rdStatus, .rdResult, .rdCount] ∧
    Instr.rdCount ∈ [.wrCtrl false, .wrStatus false, .rdId, .rdStatus, .rdResult, .rdCount] := by decide

theorem witness_LegalRequestsNeverError :
    decode (Request.ofWord 0xCC000000FF) = .ok (.wrData8 0xFF) ∧
      (regState 0xFFFFFFFF 0xFFFFFFFF true 6).InService := by decide

/-- Every transaction answers a next state, so each part of the frame is about something. -/
theorem witness_TransactionFrame :
    (∃ t, exec .rdStatus State.reset = .next t) ∧ (∃ t, exec (.wrData8 0) State.reset = .next t) ∧
    (∃ t, exec (.wrStatus true) State.reset = .next t) := ⟨⟨_, rfl⟩, ⟨_, rfl⟩, ⟨_, rfl⟩⟩

theorem witness_ReadIgnoresWdata : (Request.ofWord 0x44FFFFFFFF).we = false := by decide

theorem witness_TransactionDependsOnRegistersOnly :
    (regState 5 6 true 3).InService ∧ State.InService { regState 5 6 true 3 with draws := 9 } := by
  decide

/-! ## Errors -/

theorem witness_AccessErrorEffect :
    cause (Request.ofWord 0x9D00000000) = some .badSize ∧ State.reset.InService ∧
      (regState 0 0 true 4).InService := by decide

/-- An edge that clears ERR: WR_STATUS with c = 1. -/
theorem witness_ErrIsSticky :
    ∃ t, step ((regState 0 0 true 4).withFetchWord 40 0xC800000001) = .next t ∧
      ((regState 0 0 true 4).withFetchWord 40 0xC800000001).nextInput = .edge .idle ∧
      (regState 0 0 true 4).err = true ∧ t.err = false := ⟨_, rfl, rfl, rfl, rfl⟩

/-- An edge that sets ERR: a refused request. -/
theorem witness_ErrSetOnlyByRefusal :
    ∃ t, step (State.reset.withFetchWord 40 0xDC00000000) = .next t ∧
      (State.reset.withFetchWord 40 0xDC00000000).nextInput = .edge .idle ∧
      State.reset.err = false ∧ t.err = true := ⟨_, rfl, rfl, rfl, rfl⟩

theorem witness_LogTellsWhetherACallWasClean :
    State.reset.InService ∧ State.reset.err = false ∧
    keepsLog [Request.ofWord 0xCC00000061, Request.ofWord 0xDC00000000] = true ∧
    [Request.ofWord 0xCC00000061, Request.ofWord 0xDC00000000].findSome? cause = some .unmapped := by
  decide

/-! ## Sequences -/

theorem witness_EngineHashesItsStream :
    (regState 0xe40c292c 1 true 2).acc = fnvHash [0x61] ∧
      (regState 0xe40c292c 1 true 2).count = BitVec.ofNat 32 [(0x61 : Byte)].length ∧
      (regState 0xe40c292c 1 true 2).InService := by decide

theorem witness_HashCallReturnsTheHash :
    [Instr.wrData32 0x666F6F62, .wrData8 0x61, .wrData8 0x72].all isAbsorb = true := by decide

/-- P5, with a read and a refused absorb of another host in the place of its INIT. -/
theorem witness_ExclusiveUseGivesTheHash :
    let between : List Issued :=
      [⟨0, (Instr.wrData8 0x61).toRequest⟩, ⟨1, Instr.toRequest .rdResult⟩,
       ⟨1, Request.ofWord 0xCC00000161⟩, ⟨0, (Instr.wrData8 0x62).toRequest⟩]
    State.reset.InService ∧ [Instr.wrData8 0x61, .wrData8 0x62].all isAbsorb = true ∧
    programOf 0 between = [Instr.wrData8 0x61, .wrData8 0x62].map Instr.toRequest ∧
    exclusiveUse 0 between = true := by decide

theorem witness_ReadsCanBeDropped :
    Instr.rdStatus ∈ [.rdId, .rdStatus, .rdResult, .rdCount] := by decide

/-! ## Scripts and the container -/

theorem witness_AssemblerAcceptsLegalOnly :
    (∃ q, assemble (.rd .id) = .ok q) ∧ (∃ q, assemble (.wr .data8 255) = .ok q) ∧
    (∃ q, assemble (.wr .status 1) = .ok q) ∧
    (Request.ofWord 0xC400000002).we = true ∧ (Request.ofWord 0x4400000000).we = false :=
  ⟨⟨_, rfl⟩, ⟨_, rfl⟩, ⟨_, rfl⟩, rfl, rfl⟩

theorem witness_CorrectedCopyIsValid : 0x310 ≤ (List.replicate 0x310 (0 : Byte)).length := by
  rw [List.length_replicate]

theorem witness_TruncatedFileHasNoVerdict : (List.replicate 0x30F (0 : Byte)).length < 0x310 := by
  rw [List.length_replicate]; decide

theorem witness_LengthOnlyWarns :
    0x310 ≤ validFile.length ∧ (validFile ++ [0xFF]).take 0x310 = validFile.take 0x310 := by
  decide +kernel

/-! ## The step -/

/-- The state `State.withFetchWord` makes is one at which a transaction completes. -/
theorem completes_withFetchWord (s : State) (w : Nat) :
    (s.withFetchWord 40 w).CompletesNow (Request.ofWord (BitVec.ofNat 40 (tableWord 40 w))) :=
  ⟨⟨.idle, rfl, rfl⟩, rfl, rfl⟩

theorem witness_StepRunsTheDecodedInstruction :
    (State.reset.withFetchWord 40 0xCC00000061).CompletesNow (Request.ofWord 0xCC00000061) ∧
      (State.reset.withFetchWord 40 0xCC00000061).cause ≠ 7#3 ∧
      decode (Request.ofWord 0xCC00000061) = .ok (.wrData8 0x61) ∧
      decode (Request.ofWord 0xDC00000000) = .error .unmapped :=
  ⟨completes_withFetchWord _ _, by decide, by decide, by decide⟩

/-- The three clauses: a request to a ready engine, none to it, and one while another waits. -/
theorem witness_AcceptanceAtAnEdge :
    let s : State := { State.reset with inputs := [.edge (present 0xCC00000061)] }
    let r : State := { s with outstanding := some ⟨Request.ofWord 0x5400000000, 1⟩ }
    s.nextInput = .edge (present 0xCC00000061) ∧ (present 0xCC00000061).rstN = true ∧
    s.phase = .running ∧ s.cause ≠ 7#3 ∧ s.outstanding = none ∧
    (present 0xCC00000061).reqValid = true ∧ PinSample.idle.reqValid = false ∧
    State.reset.nextInput = .edge .idle ∧
    r.outstanding = some ⟨Request.ofWord 0x5400000000, 0 + 1⟩ := by decide

theorem witness_HandshakeRefinesTransaction :
    ∃ (s : State) (edges : List PinSample),
      s.phase = .running ∧ s.cause ≠ 7#3 ∧ s.outstanding = none ∧
      s.inputs = .edge ⟨true, true, Request.ofWord 0xCC00000061⟩ :: (edges.map Input.edge ++ []) ∧
      edges.all PinSample.rstN = true ∧
      edges.length = responseDelay (Request.ofWord 0xCC00000061) (s.draws + 1) :=
  ⟨{ State.reset with inputs := .edge (present 0xCC00000061) ::
        ((List.replicate (responseDelay (Request.ofWord 0xCC00000061) 1) PinSample.idle).map
          Input.edge ++ []) },
    List.replicate (responseDelay (Request.ofWord 0xCC00000061) 1) PinSample.idle,
    rfl, by decide, rfl, rfl, by simp [PinSample.idle], List.length_replicate⟩

theorem witness_ResetEdgeSetsEveryElement :
    State.nextInput { regState 1 2 true 3 with inputs := [.edge resetPins] } = .edge resetPins ∧
      resetPins.rstN = false := by decide

theorem witness_ReleaseOfReset :
    let s : State := { State.reset with phase := .inReset, inputs := [.edge (present 0xCC00000061)] }
    s.phase = .inReset ∧ s.nextInput = .edge (present 0xCC00000061) ∧
      (present 0xCC00000061).rstN = true ∧ s.ResetHeld := by decide

theorem witness_BootReachesTheResetState :
    ∃ s : State, s.phase = .unreset ∧
      s.inputs = .edge resetPins :: .edge PinSample.idle :: [] ∧ resetPins.rstN = false ∧
      PinSample.idle.rstN = true :=
  ⟨{ State.powerUp with inputs := [.edge resetPins, .edge PinSample.idle] }, rfl, rfl, rfl, rfl⟩

theorem witness_OutputPorts :
    let s : State := { State.reset with response := some ⟨true, 0⟩ }
    s.phase = .running ∧ s.response = some ⟨true, 0⟩ := by decide

theorem witness_UnusableStatesFault :
    State.powerUp.phase = .unreset ∧
    State.nextInput { State.powerUp with inputs := [.edge (present 0x5400000000)] } =
      .edge (present 0x5400000000) ∧
    (present 0x5400000000).rstN = true ∧ (present 0x5400000000).reqValid = true ∧
    (regState 0 0 true 7).phase ≠ .unreset ∧ (regState 0 0 true 7).cause = 7#3 :=
  ⟨rfl, rfl, by decide, by decide, by decide, by decide⟩

/-! ## Invariants -/

/-- An edge that changes ACC and COUNT. -/
theorem witness_OnlyHashCommandsWriteAcc :
    ∃ t, step (State.reset.withFetchWord 40 0xCC00000061) = .next t ∧
      (State.reset.withFetchWord 40 0xCC00000061).nextInput = .edge .idle ∧
      t.acc = 0xe40c292c ∧ t.count = 1 := ⟨_, rfl, rfl, rfl, rfl⟩

theorem witness_StepKeepsTheInvariant :
    State.reset.Inv ∧ ∃ t, step State.reset = .next t :=
  ⟨⟨by decide, by decide, trivial, fun _ => trivial, by decide⟩, ⟨_, rfl⟩⟩

theorem witness_ReachableStatesOnlyFaultBeforeReset :
    Reachable { State.powerUp with inputs := [.edge resetPins] } ∧
    ∃ t, step { State.powerUp with inputs := [.edge resetPins] } = .next t :=
  ⟨.powerUp _, ⟨_, rfl⟩⟩

end Sys2Proof.Tests
end

section
/-! The file a host writes a word into (R12, R64), and the verdict on a patched or a truncated file
(R66, R68, R69). -/

namespace Sys2Proof.Machine

/-! ### `MemWrite` inside the file (R12) -/

/-- A write inside the file keeps its length. -/
theorem length_memWrite {f v : List Byte} {addr : Nat} (h : addr + v.length ≤ f.length) :
    (memWrite f addr v).length = f.length := by
  simp only [memWrite, List.length_append, List.length_take, List.length_drop]
  omega

/-- Below the written bytes nothing changes. -/
theorem getElem?_memWrite_of_lt {f v : List Byte} {addr i : Nat} (h : addr ≤ f.length)
    (hi : i < addr) : (memWrite f addr v)[i]? = f[i]? := by
  have hlen : (f.take addr).length = addr := List.length_take_of_le h
  rw [memWrite, List.append_assoc, List.getElem?_append_left (by omega),
    List.getElem?_take_of_lt hi]

/-- The written bytes are found where they were written. -/
theorem getElem?_memWrite_add {f v : List Byte} {addr k : Nat} (h : addr ≤ f.length)
    (hk : k < v.length) : (memWrite f addr v)[addr + k]? = v[k]? := by
  have hlen : (f.take addr).length = addr := List.length_take_of_le h
  rw [memWrite, List.append_assoc, List.getElem?_append_right (by omega), hlen,
    Nat.add_sub_cancel_left, List.getElem?_append_left hk]

/-- Above the written bytes nothing changes. -/
theorem getElem?_memWrite_of_le {f v : List Byte} {addr i : Nat} (h : addr ≤ f.length)
    (hi : addr + v.length ≤ i) : (memWrite f addr v)[i]? = f[i]? := by
  have hlen : (f.take addr ++ v).length = addr + v.length := by
    rw [List.length_append, List.length_take_of_le h]
  rw [memWrite, List.getElem?_append_right (by omega), hlen, List.getElem?_drop,
    Nat.add_sub_cancel' hi]

/-- The bytes before the written ones are those of the file. -/
theorem take_memWrite {f v : List Byte} {addr : Nat} (h : addr ≤ f.length) :
    (memWrite f addr v).take addr = f.take addr := by
  rw [memWrite, List.append_assoc, List.take_left' (List.length_take_of_le h)]

/-! ### The big-endian word of a file (R64) -/

@[simp] theorem length_dataBytes (w : Word) : (dataBytes w).length = 4 := rfl

/-- Packing undoes the split of a word into its bytes, most significant first. -/
theorem packBytes_bytes (w : Word) : packBytes (byte0 w) (byte1 w) (byte2 w) (byte3 w) = w := by
  unfold packBytes byte0 byte1 byte2 byte3
  rw [BitVec.extractLsb'_append_extractLsb'_eq_extractLsb' (show 24 = 16 + 8 from rfl),
    BitVec.extractLsb'_append_extractLsb'_eq_extractLsb' (show 16 = 8 + 8 from rfl),
    BitVec.extractLsb'_append_extractLsb'_eq_extractLsb' (show 8 = 0 + 8 from rfl)]
  exact BitVec.extractLsb'_eq_self

/-- The bytes of a word, once written, read back as that word. -/
theorem fileWord_memWrite_dataBytes {f : List Byte} {addr : Nat} (h : addr ≤ f.length) (w : Word) :
    fileWord (memWrite f addr (dataBytes w)) addr = w := by
  have hbyte : ∀ k, k < 4 → fileByte (memWrite f addr (dataBytes w)) (addr + k) =
      (dataBytes w).getD k 0 := fun k hk => by
    rw [fileByte, List.getD_eq_getElem?_getD, getElem?_memWrite_add h hk,
      List.getD_eq_getElem?_getD]
  have hfirst : fileByte (memWrite f addr (dataBytes w)) addr = (dataBytes w).getD 0 0 :=
    hbyte 0 (by decide)
  rw [fileWord, hfirst, hbyte 1 (by decide), hbyte 2 (by decide), hbyte 3 (by decide)]
  exact packBytes_bytes w

/-! ### The verdict (R66, R68) -/

/-- A file too short for the field is reported as truncated. -/
theorem verify_of_lt {f : List Byte} (h : f.length < minimumLength) :
    verify f = .error .truncatedFile := if_pos h

/-- A file that holds the field is judged. -/
theorem verify_of_le {f : List Byte} (h : minimumLength ≤ f.length) :
    verify f = .ok (reportOf f (fnvHash (hashedRegion f))) := if_neg (Nat.not_lt.mpr h)

/-- The verdict is VALID exactly when the stored checksum is the expected one. -/
theorem reportOf_verdict_eq_valid_iff (f : List Byte) (expected : Word) :
    (reportOf f expected).verdict = .valid ↔ storedField f = expected := by
  unfold reportOf
  split <;> simp_all

/-- With the engine, too, the length is looked at first: a truncated file uses no transaction. -/
theorem verifyOnEngine_of_lt {f : List Byte} (h : f.length < minimumLength) (s : State) :
    verifyOnEngine f s = some (.error .truncatedFile) := if_pos h

/-! ### The corrected copy (R69) -/

/-- The field lies inside a file of the least length. -/
theorem fieldOffset_le_of_minimumLength_le {f : List Byte} (h : minimumLength ≤ f.length) :
    fieldOffset ≤ f.length := Nat.le_trans (by decide) h

theorem length_correctedCopy {f : List Byte} (h : minimumLength ≤ f.length) :
    (correctedCopy f).length = f.length := length_memWrite h

theorem getElem?_correctedCopy {f : List Byte} (h : minimumLength ≤ f.length) {i : Nat}
    (hi : i < fieldOffset ∨ minimumLength ≤ i) : (correctedCopy f)[i]? = f[i]? := by
  have hfield := fieldOffset_le_of_minimumLength_le h
  rcases hi with below | above
  · exact getElem?_memWrite_of_lt hfield below
  · exact getElem?_memWrite_of_le hfield above

/-- The field is no part of what is hashed, so the patch leaves the hashed region as it was. -/
theorem hashedRegion_correctedCopy {f : List Byte} (h : minimumLength ≤ f.length) :
    hashedRegion (correctedCopy f) = hashedRegion f :=
  take_memWrite (fieldOffset_le_of_minimumLength_le h)

theorem storedField_correctedCopy {f : List Byte} (h : minimumLength ≤ f.length) :
    storedField (correctedCopy f) = fnvHash (hashedRegion f) :=
  fileWord_memWrite_dataBytes (fieldOffset_le_of_minimumLength_le h) _

/-- The copy stores the hash of its own hashed region. -/
theorem verify_correctedCopy_valid {f : List Byte} (h : minimumLength ≤ f.length) :
    ∃ r, verify (correctedCopy f) = .ok r ∧ r.verdict = .valid := by
  have hlen : minimumLength ≤ (correctedCopy f).length := by rwa [length_correctedCopy h]
  refine ⟨_, verify_of_le hlen, ?_⟩
  rw [reportOf_verdict_eq_valid_iff, storedField_correctedCopy h, hashedRegion_correctedCopy h]

/-! ### The obligations -/

/-- Settles O39: the patch is a `MemWrite` of the field (its frame and what it stores), and the hashed
region is outside the field. -/
theorem correctedCopyIsValid : Obligations.CorrectedCopyIsValid := fun _ h =>
  ⟨length_correctedCopy h, fun _ hi => getElem?_correctedCopy h hi, storedField_correctedCopy h,
    verify_correctedCopy_valid h⟩

/-- Settles O40: both verifications look at the length first, and a file long enough is judged. -/
theorem truncatedFileHasNoVerdict : Obligations.TruncatedFileHasNoVerdict := by
  refine ⟨fun f => ⟨fun herr => ?_, verify_of_lt⟩, fun _ s h => verifyOnEngine_of_lt h s⟩
  by_contra hlen
  rw [verify_of_le (Nat.not_lt.mp hlen)] at herr
  cases herr

end Sys2Proof.Machine
end

section
/-! The 40-bit request word and its four fields (R80), the opcode map read on those fields (R81), the
illegal space (R87), and the transactions that change no register (R88). -/

namespace Sys2Proof

/-! ### Packing and unpacking (R80) -/

/-- A field of a field of a word is a field of the word. -/
theorem extractLsb'_of_extractLsb' {w a n b m : Nat} (x : BitVec w) (h : b + m ≤ n) :
    (x.extractLsb' a n).extractLsb' b m = x.extractLsb' (a + b) m := by
  apply BitVec.eq_of_getLsbD_eq
  intro k hk
  have hin : b + k < n := by omega
  simp [hk, hin, Nat.add_assoc]

theorem Request.toWord_ofWord (word : BitVec 40) : (Request.ofWord word).toWord = word := by
  have hwe : BitVec.ofBool (word.getLsbD 39) = word.extractLsb' 39 1 := by
    apply BitVec.eq_of_getLsbD_eq
    simp
  unfold Request.toWord Request.ofWord
  rw [hwe, BitVec.extractLsb'_append_extractLsb'_eq_extractLsb' (show 39 = 37 + 2 from rfl),
    BitVec.extractLsb'_append_extractLsb'_eq_extractLsb' (show 37 = 32 + 5 from rfl),
    BitVec.extractLsb'_append_extractLsb'_eq_extractLsb' (show 32 = 0 + 32 from rfl)]
  exact BitVec.extractLsb'_eq_self

theorem Request.ofWord_toWord (q : Request) : Request.ofWord q.toWord = q := by
  have hwe : q.toWord.getLsbD 39 = q.we := (Request.toWord_getLsbD q 39).trans (by simp)
  have hsize : q.toWord.extractLsb' 37 2 = q.size := by
    unfold Request.toWord
    rw [BitVec.extractLsb'_append_eq_of_le (by decide),
      BitVec.extractLsb'_append_eq_of_le (by decide)]
    exact BitVec.extractLsb'_append_eq_right
  have haddr : q.toWord.extractLsb' 32 5 = q.addr := by
    unfold Request.toWord
    rw [BitVec.extractLsb'_append_eq_of_le (by decide)]
    exact BitVec.extractLsb'_append_eq_right
  have hwdata : q.toWord.extractLsb' 0 32 = q.wdata := BitVec.extractLsb'_append_eq_right
  rw [Request.ofWord, hwe, hsize, haddr, hwdata]

/-- Words are equal exactly when their requests are. -/
theorem Request.ofWord_inj {a b : BitVec 40} : Request.ofWord a = Request.ofWord b ↔ a = b :=
  ⟨fun h => by rw [← Request.toWord_ofWord a, h, Request.toWord_ofWord], congrArg _⟩

/-- Settles O1: the two round trips; the fields are the definition of the unpacking. -/
theorem requestWordFields : Obligations.RequestWordFields :=
  ⟨fun word => ⟨rfl, rfl, rfl, rfl, Request.toWord_ofWord word⟩, Request.ofWord_toWord⟩

/-! ### A row of the opcode map, field by field (R81) -/

theorem ofWord_and (a b : BitVec 40) : Request.ofWord (a &&& b) =
    ⟨(Request.ofWord a).we && (Request.ofWord b).we,
      (Request.ofWord a).size &&& (Request.ofWord b).size,
      (Request.ofWord a).addr &&& (Request.ofWord b).addr,
      (Request.ofWord a).wdata &&& (Request.ofWord b).wdata⟩ := by
  simp [Request.ofWord, BitVec.extractLsb'_and]

/-- The mask of the bits from `k` up finds nothing exactly when the field of those bits is 0. -/
theorem and_shifted_ones_eq_zero_iff {k n : Nat} (x : BitVec (k + n)) :
    x &&& (BitVec.allOnes (k + n) <<< k) = 0#(k + n) ↔ x.extractLsb' k n = 0#n := by
  constructor
  · intro h
    apply BitVec.eq_of_getLsbD_eq
    intro j hj
    have hbit := congrArg (fun y => y.getLsbD (k + j)) h
    simpa [hj] using hbit
  · intro h
    apply BitVec.eq_of_getLsbD_eq
    intro j hj
    by_cases hkj : j < k
    · simp [hkj]
    · have hbit := congrArg (fun y => y.getLsbD (j - k)) h
      have hlt : j - k < n := by omega
      have hj' : k + (j - k) = j := by omega
      simpa [hlt, hj', hkj, hj] using hbit

theorem and_mask_above_bit0 (w : Word) :
    w &&& 0xFFFFFFFE#32 = 0#32 ↔ w.extractLsb' 1 31 = 0#31 :=
  and_shifted_ones_eq_zero_iff (k := 1) (n := 31) w

theorem and_mask_above_byte (w : Word) :
    w &&& 0xFFFFFF00#32 = 0#32 ↔ w.extractLsb' 8 24 = 0#24 :=
  and_shifted_ones_eq_zero_iff (k := 8) (n := 24) w

/-- The requests of each kind: WE, ADDR and the reserved bits of WDATA (R81, R85). -/
def Kind.Carries : Kind → Request → Prop
  | .rdId, q => q.we = false ∧ q.addr = 0x00
  | .wrCtrl, q => q.we = true ∧ q.addr = 0x04 ∧ q.wdata.extractLsb' 1 31 = 0
  | .rdStatus, q => q.we = false ∧ q.addr = 0x08
  | .wrStatus, q => q.we = true ∧ q.addr = 0x08 ∧ q.wdata.extractLsb' 1 31 = 0
  | .wrData8, q => q.we = true ∧ q.addr = 0x0C ∧ q.wdata.extractLsb' 8 24 = 0
  | .wrData32, q => q.we = true ∧ q.addr = 0x10
  | .rdResult, q => q.we = false ∧ q.addr = 0x14
  | .rdCount, q => q.we = false ∧ q.addr = 0x18

/-- A row's match under its mask is a condition on the word's fields (R81). -/
theorem and_mask_eq_pattern_iff (word : BitVec 40) (k : Kind) :
    word &&& (rowOf k).mask = (rowOf k).pattern ↔
      (Request.ofWord word).size = 2#2 ∧ k.Carries (Request.ofWord word) := by
  rw [← Request.ofWord_inj, ofWord_and]
  generalize Request.ofWord word = q
  have hsize : ∀ x : BitVec 2, x &&& 3#2 = x := fun _ => BitVec.and_allOnes
  have haddr : ∀ x : BitVec 5, x &&& 31#5 = x := fun _ => BitVec.and_allOnes
  cases k <;>
    simp [rowOf, Request.ofWord, Kind.Carries, hsize, haddr, and_mask_above_bit0,
      and_mask_above_byte, and_left_comm]

/-- The requests the decoder takes for a kind are those the opcode map gives it (R81, R86). -/
theorem decode_kind_iff (q : Request) (k : Kind) :
    (∃ i, decode q = .ok i ∧ i.kind = k) ↔ q.size = 2#2 ∧ k.Carries q := by
  simp only [decode_eq_ok_cases]
  cases k <;>
    simp [Kind.Carries, Instr.kind, or_and_right, and_or_left, exists_or, and_assoc]

theorem mem_opcodeTable_iff (r : Row) : r ∈ opcodeTable ↔ ∃ k, r = rowOf k := by
  constructor
  · intro h
    simp only [opcodeTable, List.mem_cons, List.not_mem_nil, or_false] at h
    rcases h with h | h | h | h | h | h | h | h <;> exact ⟨_, h⟩
  · rintro ⟨k, rfl⟩
    cases k <;> decide

@[simp] theorem kind_rowOf (k : Kind) : (rowOf k).kind = k := by cases k <;> rfl

/-- A word matches a row exactly when it decodes to a transaction of the row's kind (R81). -/
theorem matches_row_iff_decode_kind {r : Row} (hr : r ∈ opcodeTable) (word : BitVec 40) :
    word &&& r.mask = r.pattern ↔ ∃ i, decodeWord word = .ok i ∧ i.kind = r.kind := by
  obtain ⟨k, rfl⟩ := (mem_opcodeTable_iff r).1 hr
  rw [and_mask_eq_pattern_iff, kind_rowOf, decodeWord, decode_kind_iff]

/-- A row is found again from its kind. -/
theorem rowOf_kind {r : Row} (hr : r ∈ opcodeTable) : rowOf r.kind = r := by
  obtain ⟨k, rfl⟩ := (mem_opcodeTable_iff r).1 hr
  rw [kind_rowOf]

/-- A word matches no row exactly when the decoder refuses it (R81, R87). -/
theorem matches_no_row_iff_refused (word : BitVec 40) :
    (∀ r ∈ opcodeTable, word &&& r.mask ≠ r.pattern) ↔ ∃ c, decodeWord word = .error c := by
  cases hd : decodeWord word with
  | ok i =>
    have hr : rowOf i.kind ∈ opcodeTable := (mem_opcodeTable_iff _).2 ⟨_, rfl⟩
    have hmatch := (matches_row_iff_decode_kind hr word).2 ⟨i, hd, (kind_rowOf _).symm⟩
    simpa using ⟨_, hr, hmatch⟩
  | error c =>
    have hnone : ∀ r ∈ opcodeTable, word &&& r.mask ≠ r.pattern := fun r hr hmatch => by
      obtain ⟨i, hi, -⟩ := (matches_row_iff_decode_kind hr word).1 hmatch
      rw [hd] at hi
      cases hi
    exact iff_of_true hnone ⟨c, rfl⟩

/-- No two rows match one word, for a word decodes to one transaction only (R81). -/
theorem row_eq_of_matches {word : BitVec 40} {r r' : Row} (hr : r ∈ opcodeTable)
    (hr' : r' ∈ opcodeTable) (h : word &&& r.mask = r.pattern)
    (h' : word &&& r'.mask = r'.pattern) : r = r' := by
  obtain ⟨i, hi, hkind⟩ := (matches_row_iff_decode_kind hr word).1 h
  obtain ⟨j, hj, hkind'⟩ := (matches_row_iff_decode_kind hr' word).1 h'
  obtain rfl : i = j := Except.ok.inj (hi.symm.trans hj)
  rw [← rowOf_kind hr, ← rowOf_kind hr', ← hkind, ← hkind']

/-! ### The operands of the writes (R84) -/

/-- Where a write's operand stands in its word; a read has none (R84). -/
def Instr.OperandIn (word : BitVec 40) : Instr → Prop
  | .wrCtrl i => word.getLsbD 0 = i
  | .wrStatus c => word.getLsbD 0 = c
  | .wrData8 b => word.extractLsb' 0 8 = b
  | .wrData32 w => word.extractLsb' 0 32 = w
  | .rdId => True
  | .rdStatus => True
  | .rdResult => True
  | .rdCount => True

/-- The decoder takes a write's operand from where R84 says it stands. -/
theorem operandIn_of_decodeWord {word : BitVec 40} {i : Instr} (h : decodeWord word = .ok i) :
    i.OperandIn word := by
  have hbit : (Request.ofWord word).wdata.getLsbD 0 = word.getLsbD 0 := by simp [Request.ofWord]
  have hbyte : (Request.ofWord word).wdata.extractLsb' 0 8 = word.extractLsb' 0 8 :=
    extractLsb'_of_extractLsb' word (by decide)
  obtain ⟨-, hrow⟩ := (decode_eq_ok_cases _ i).1 h
  rcases hrow with ⟨-, -, rfl⟩ | ⟨-, -, -, rfl⟩ | ⟨-, -, rfl⟩ | ⟨-, -, -, rfl⟩ | ⟨-, -, -, rfl⟩ |
    ⟨-, -, rfl⟩ | ⟨-, -, rfl⟩ | ⟨-, -, rfl⟩
  · exact trivial
  · exact hbit.symm
  · exact trivial
  · exact hbit.symm
  · exact hbyte.symm
  · exact rfl
  · exact trivial
  · exact trivial

/-- Settles O4: what the decoder makes of a row's words, in both directions; the rest is about the
eight rows as written. -/
theorem opcodeMap : Obligations.OpcodeMap :=
  ⟨rfl, fun word _ hr => matches_row_iff_decode_kind hr word, matches_no_row_iff_refused,
    fun _ _ _ hr hr' => row_eq_of_matches hr hr', by decide, by decide,
    fun _ _ h => operandIn_of_decodeWord h, fun _ _ h => operandIn_of_decodeWord h,
    fun _ _ h => operandIn_of_decodeWord h, fun _ _ h => operandIn_of_decodeWord h⟩

/-! ### The illegal space (R87, R152) -/

/-- A request has a cause exactly when it fails one of the checks of R152. -/
theorem exists_cause_iff (q : Request) : (∃ c, cause q = some c) ↔
    q.size ≠ wordSize ∨ q.lane ≠ 0 ∨ q.slot = 7 ∨
    (q.we = true ∧ (q.slot = 0 ∨ q.slot = 5 ∨ q.slot = 6)) ∨
    (q.we = false ∧ (q.slot = 1 ∨ q.slot = 3 ∨ q.slot = 4)) ∨
    (q.we = true ∧ (q.slot = 1 ∨ q.slot = 2) ∧ q.wdata.extractLsb' 1 31 ≠ 0) ∨
    (q.we = true ∧ q.slot = 3 ∧ q.wdata.extractLsb' 8 24 ≠ 0) := by
  unfold cause
  split_ifs <;> simp_all

/-- An aligned request's ADDR is its word slot over two zeros (R51). -/
theorem Request.slot_eq_iff_addr {q : Request} (h : q.lane = 0) (v : BitVec 3) :
    q.slot = v ↔ q.addr = v ++ 0#2 := by
  have hsplit : q.slot ++ q.lane = q.addr := by
    unfold Request.slot Request.lane
    rw [BitVec.extractLsb'_append_extractLsb'_eq_extractLsb' (show 2 = 0 + 2 from rfl)]
    exact BitVec.extractLsb'_eq_self
  constructor
  · intro hv
    rw [← hsplit, hv, h]
    rfl
  · intro hv
    rw [Request.slot, hv]
    exact BitVec.extractLsb'_append_eq_left

/-- The parts of the illegal space that R87 lists are the failures of the checks of R152. -/
theorem exists_cause_iff_listed (word : BitVec 40) :
    (∃ c, cause (Request.ofWord word) = some c) ↔
      (word.extractLsb' 37 2 ≠ 0b10 ∨
       word.extractLsb' 32 2 ≠ 0 ∨
       word.extractLsb' 32 5 = 0x1C ∨
       (word.getLsbD 39 = true ∧ word.extractLsb' 32 5 ∈ [0x00, 0x14, 0x18]) ∨
       (word.getLsbD 39 = false ∧ word.extractLsb' 32 5 ∈ [0x04, 0x0C, 0x10]) ∨
       (word.getLsbD 39 = true ∧ word.extractLsb' 32 5 ∈ [0x04, 0x08] ∧
          word.extractLsb' 1 31 ≠ 0) ∨
       (word.getLsbD 39 = true ∧ word.extractLsb' 32 5 = 0x0C ∧ word.extractLsb' 8 24 ≠ 0)) := by
  have hlane : (Request.ofWord word).lane = word.extractLsb' 32 2 :=
    extractLsb'_of_extractLsb' word (by decide)
  have hbits (k n : Nat) (h : k + n ≤ 32) :
      (Request.ofWord word).wdata.extractLsb' k n = word.extractLsb' k n := by
    rw [Request.ofWord, extractLsb'_of_extractLsb' word h, Nat.zero_add]
  rw [exists_cause_iff]
  by_cases haligned : (Request.ofWord word).lane = 0
  · simp only [Request.slot_eq_iff_addr haligned, hlane, hbits 1 31 (by decide),
      hbits 8 24 (by decide)]
    simp [Request.ofWord, wordSize]
  · have hlisted : word.extractLsb' 32 2 ≠ 0 := hlane ▸ haligned
    exact iff_of_true (.inr (.inl haligned)) (.inr (.inl hlisted))

theorem exists_cause_iff_refused (word : BitVec 40) :
    (∃ c, decodeWord word = .error c) ↔ ∃ c, cause (Request.ofWord word) = some c :=
  exists_congr fun c => decode_eq_error_iff _ c

end Sys2Proof

namespace Sys2Proof.Machine

/-- A request with a cause raises the access error of that cause, in every state (R87, R153). -/
theorem perform_of_cause {q : Request} {c : AccessCause} (h : cause q = some c) (s : State) :
    perform q s = accessError c s := by
  rw [perform, (decode_eq_error_iff q c).2 h]

/-- Settles O6: a word matches no row when it is refused, that is when it has a cause, and the causes
are the listed parts. -/
theorem illegalSpace : Obligations.IllegalSpace := by
  have hcause (word : BitVec 40) := (matches_no_row_iff_refused word).trans
    (exists_cause_iff_refused word)
  refine ⟨fun word => ⟨(hcause word).trans (exists_cause_iff_listed word), hcause word⟩, ?_⟩
  exact fun word c h => ⟨(decode_eq_error_iff _ c).2 h, perform_of_cause h⟩

/-! ### The transactions that change no register (R88) -/

/-- The no-ops and the reads leave every register as it was and only answer; a no-op answers 0. -/
theorem afterInstr_of_mem_unchanging {i : Instr} (s : State)
    (hi : i ∈ [.wrCtrl false, .wrStatus false, .rdId, .rdStatus, .rdResult, .rdCount]) :
    ∃ v : Word, (i ∈ [.wrCtrl false, .wrStatus false] → v = 0) ∧
      afterInstr i s = s.respond false v := by
  simp only [List.mem_cons, List.not_mem_nil, or_false] at hi
  rcases hi with rfl | rfl | hread
  · exact ⟨0, fun _ => rfl, rfl⟩
  · exact ⟨0, fun _ => rfl, rfl⟩
  · rcases hread with rfl | rfl | rfl | rfl <;>
      exact ⟨_, fun h => absurd h (by decide), rfl⟩

/-- Settles O22: both no-op words decode to operand 0, and in service a transaction is its effect. -/
theorem noOpsChangeNothing : Obligations.NoOpsChangeNothing := by
  refine ⟨by decide, by decide, fun i s hs hi => ?_⟩
  obtain ⟨v, hzero, hafter⟩ := afterInstr_of_mem_unchanging s hi
  exact ⟨v, hzero, by rw [exec_of_inService hs, hafter]; rfl⟩

end Sys2Proof.Machine
end

section
/-! The absorb step as arithmetic (R101), the hash as its fold (R102), and the commands WR_CTRL and
WR_DATA8 (R108, R109), with what every refused request has in common (R152, R153). -/

namespace Sys2Proof.Machine

/-! ### The datapath (R101, R102) -/

/-- The step on the numbers: the byte enters with its own value, for zero extension keeps it. -/
theorem toNat_fnvStep (acc : Word) (b : Byte) :
    (fnvStep acc b).toNat = (0x01000193 * (acc.toNat ^^^ b.toNat)) % 2 ^ 32 := by
  have hzext : (zext32 b).toNat = b.toNat := BitVec.toNat_setWidth_of_le (by decide)
  rw [fnvStep, BitVec.toNat_mul, BitVec.toNat_xor, hzext]
  rfl

/-- Settles O8: the product and the XOR, taken on the numbers. -/
theorem absorbStepIsExact : Obligations.AbsorbStepIsExact := toNat_fnvStep

/-- Folding over a concatenation goes on from where the first part ended. -/
theorem fnvFold_append (acc : Word) (bs cs : List Byte) :
    fnvFold acc (bs ++ cs) = fnvFold (fnvFold acc bs) cs := List.foldl_append

/-- Settles O9: the hash is a left fold by definition, and one over a concatenation is two. -/
theorem hashIsTheFold : Obligations.HashIsTheFold :=
  ⟨fun _ => rfl, rfl, by decide, fun bs cs => fnvFold_append _ bs cs, by decide, by decide⟩

/-! ### Refused requests (R152, R153) -/

/-- The size and the alignment are looked at first, whatever the direction and the slot (R152). -/
theorem sizeAndAlignmentRefused (we : Bool) (slot : BitVec 3) :
    SizeAndAlignmentRefused we slot := by
  intro q _ _
  exact ⟨fun hsize => if_pos hsize,
    fun hsize hlane => (if_neg (not_not_intro hsize)).trans (if_pos hlane)⟩

/-- An offset with zeros in its lane is the slot above them (R51). -/
theorem slot_and_lane_of_addr {q : Request} {v : BitVec 3} (h : q.addr = v ++ 0#2) :
    q.slot = v ∧ q.lane = 0 := by
  have hlane : q.lane = 0 := by
    rw [Request.lane, h]
    exact BitVec.extractLsb'_append_eq_right
  exact ⟨(Request.slot_eq_iff_addr hlane v).2 h, hlane⟩

/-- The last two checks: an aligned word write to a register with reserved bits that sets some. -/
theorem cause_eq_reservedBits_iff (q : Request) : cause q = some .reservedBits ↔
    q.size = wordSize ∧ q.lane = 0 ∧ q.we = true ∧
      (((q.slot = 1 ∨ q.slot = 2) ∧ q.wdata.extractLsb' 1 31 ≠ 0) ∨
        (q.slot = 3 ∧ q.wdata.extractLsb' 8 24 ≠ 0)) := by
  unfold cause
  split_ifs <;> grind

/-- Refusing a request moves neither ACC nor COUNT: it writes the error log and the response only. -/
theorem refusalKeepsHash (we : Bool) (slot : BitVec 3) : RefusalKeepsHash we slot := by
  intro q c s _ _ hcause hs
  refine ⟨(s.logError c.code).respond true 0, ?_, ?_⟩
  · rw [perform_of_cause hcause, accessError_of_inService hs]
  · simp

/-! ### Words of a row -/

/-- A word that matches the row of a kind decodes to that kind, its operand taken from the word
(R81, R84). -/
theorem exists_decodeWord_of_matches {word : BitVec 40} (k : Kind)
    (h : word &&& (rowOf k).mask = (rowOf k).pattern) :
    ∃ i, decodeWord word = .ok i ∧ i.kind = k ∧ i.OperandIn word := by
  have hrow : rowOf k ∈ opcodeTable := (mem_opcodeTable_iff _).2 ⟨k, rfl⟩
  obtain ⟨i, hdecode, hkind⟩ := (matches_row_iff_decode_kind hrow word).1 h
  exact ⟨i, hdecode, hkind.trans (kind_rowOf k), operandIn_of_decodeWord hdecode⟩

/-! ### WR_CTRL (R108) -/

theorem decodeWord_of_matches_wrCtrl {word : BitVec 40}
    (h : word &&& 0xFFFFFFFFFE = 0xC400000000) :
    decodeWord word = .ok (.wrCtrl (word.getLsbD 0)) := by
  obtain ⟨i, hdecode, hkind, hoperand⟩ := exists_decodeWord_of_matches .wrCtrl h
  cases i with
  | wrCtrl b =>
    have hbit : word.getLsbD 0 = b := hoperand
    rw [hdecode, hbit]
  | _ => cases hkind

theorem cause_wrCtrl_reserved {q : Request} (hwe : q.we = true) (hsize : q.size = 0b10)
    (haddr : q.addr = 0x04) (hbits : q.wdata.extractLsb' 1 31 ≠ 0) :
    cause q = some .reservedBits := by
  obtain ⟨hslot, hlane⟩ := slot_and_lane_of_addr (v := 1) haddr
  exact (cause_eq_reservedBits_iff q).2 ⟨hsize, hlane, hwe, .inl ⟨.inl hslot, hbits⟩⟩

/-- INIT on what an INIT left changes nothing. -/
theorem afterInstr_init_idem (s : State) :
    afterInstr (.wrCtrl true) (afterInstr (.wrCtrl true) s) = afterInstr (.wrCtrl true) s := rfl

/-- Settles O14: in service a WR_CTRL is its effect; the refusals are those of every request. -/
theorem wrCtrlRule : Obligations.WrCtrlRule := by
  refine ⟨fun s hs => exec_of_inService hs _, fun s hs => exec_of_inService hs _,
    fun _ => decodeWord_of_matches_wrCtrl, sizeAndAlignmentRefused _ _,
    fun _ => cause_wrCtrl_reserved, refusalKeepsHash _ _, fun s t u hfirst hsecond => ?_⟩
  obtain ⟨-, rfl⟩ := (exec_eq_next_iff _ s t).1 hfirst
  obtain ⟨-, rfl⟩ := (exec_eq_next_iff _ _ u).1 hsecond
  exact afterInstr_init_idem s

/-! ### WR_DATA8 (R109) -/

theorem decodeWord_of_matches_wrData8 {word : BitVec 40}
    (h : word &&& 0xFFFFFFFF00 = 0xCC00000000) :
    decodeWord word = .ok (.wrData8 (word.extractLsb' 0 8)) := by
  obtain ⟨i, hdecode, hkind, hoperand⟩ := exists_decodeWord_of_matches .wrData8 h
  cases i with
  | wrData8 b =>
    have hbyte : word.extractLsb' 0 8 = b := hoperand
    rw [hdecode, hbyte]
  | _ => cases hkind

theorem cause_wrData8_reserved {q : Request} (hwe : q.we = true) (hsize : q.size = 0b10)
    (haddr : q.addr = 0x0C) (hbits : q.wdata.extractLsb' 8 24 ≠ 0) :
    cause q = some .reservedBits := by
  obtain ⟨hslot, hlane⟩ := slot_and_lane_of_addr (v := 3) haddr
  exact (cause_eq_reservedBits_iff q).2 ⟨hsize, hlane, hwe, .inr ⟨hslot, hbits⟩⟩

theorem afterInstr_wrData8_acc (b : Byte) (s : State) :
    (afterInstr (.wrData8 b) s).acc = fnvStep s.acc b := rfl

theorem afterInstr_wrData8_count (b : Byte) (s : State) :
    (afterInstr (.wrData8 b) s).count = s.count + 1 := rfl

/-- The values R109 gives for one byte absorbed into BASIS. -/
theorem fnvStep_basis_values (v : Byte × Word)
    (hv : v ∈ [(0x00, 0x050c5d1f), (0x80, 0x850b939f), (0xFF, 0x7a0b824e), (0x61, 0xe40c292c)]) :
    fnvStep 0x811c9dc5 v.1 = v.2 := by
  simp only [List.mem_cons, List.not_mem_nil, or_false] at hv
  rcases hv with rfl | rfl | rfl | rfl <;> decide

/-- Settles O15: in service a WR_DATA8 is one step and one count; the refusals are those of every
request. -/
theorem wrData8Rule : Obligations.WrData8Rule := by
  refine ⟨fun b s hs => exec_of_inService hs _, fun _ => decodeWord_of_matches_wrData8,
    sizeAndAlignmentRefused _ _, fun _ => cause_wrData8_reserved, refusalKeepsHash _ _,
    fun s v hs hacc hcount hv => ⟨_, exec_of_inService hs _, ?_, ?_⟩⟩
  · rw [afterInstr_wrData8_acc, hacc, fnvStep_basis_values v hv]
  · rw [afterInstr_wrData8_count, hcount]
    rfl

end Sys2Proof.Machine
end

section
/-! The register accesses RD_ID, RD_STATUS, RD_RESULT, RD_COUNT and WR_STATUS (R130 to R134), and what
any sequence of requests leaves in ACC and COUNT (R22, R23, R57). -/

namespace Sys2Proof

/-! ### Words of the read rows (R81) -/

/-- A read has no operand, so its kind holds no other transaction. -/
theorem eq_of_kind_eq_read {i j : Instr} (hread : i ∈ [.rdId, .rdStatus, .rdResult, .rdCount])
    (h : j.kind = i.kind) : j = i := by
  simp only [List.mem_cons, List.not_mem_nil, or_false] at hread
  rcases hread with rfl | rfl | rfl | rfl <;> cases j <;> cases h <;> rfl

/-- A word matches the row of a read exactly when it decodes to that read, whatever its WDATA
(R35, R81). -/
theorem matches_row_iff_decodeWord_read {i : Instr}
    (hread : i ∈ [.rdId, .rdStatus, .rdResult, .rdCount]) (word : BitVec 40) :
    word &&& (rowOf i.kind).mask = (rowOf i.kind).pattern ↔ decodeWord word = .ok i := by
  have hrow : rowOf i.kind ∈ opcodeTable := (mem_opcodeTable_iff _).2 ⟨_, rfl⟩
  rw [matches_row_iff_decode_kind hrow, kind_rowOf]
  constructor
  · rintro ⟨j, hdecode, hkind⟩
    rwa [eq_of_kind_eq_read hread hkind] at hdecode
  · exact fun hdecode => ⟨i, hdecode, rfl⟩

end Sys2Proof

namespace Sys2Proof.Machine

/-! ### Writes to the read-only registers (R152) -/

/-- The fourth check: an aligned word write to ID, RESULT or COUNT. -/
theorem cause_eq_writeRo_iff (q : Request) : cause q = some .writeRo ↔
    q.size = wordSize ∧ q.lane = 0 ∧ q.we = true ∧ (q.slot = 0 ∨ q.slot = 5 ∨ q.slot = 6) := by
  unfold cause
  split_ifs <;> simp_all

theorem offsetRefused_writeRo {v : BitVec 3} (hv : v = 0 ∨ v = 5 ∨ v = 6) :
    OffsetRefused true (v ++ 0#2) .writeRo := by
  intro q hwe hsize haddr
  obtain ⟨rfl, hlane⟩ := slot_and_lane_of_addr haddr
  exact (cause_eq_writeRo_iff q).2 ⟨hsize, hlane, hwe, hv⟩

/-! ### The states requests leave -/

theorem reset_inService : State.reset.InService := by decide

/-- No transaction takes the engine out of service: the only CAUSE it can write is 0. -/
theorem afterInstr_inService {s : State} (h : s.InService) (i : Instr) :
    (afterInstr i s).InService := by
  obtain ⟨hphase, hcause⟩ := h
  refine ⟨by rwa [afterInstr_phase], ?_⟩
  cases i with
  | wrCtrl i => cases i <;> exact hcause
  | wrStatus c =>
    cases c with
    | false => exact hcause
    | true => exact (by decide : 0#3 ≠ 7#3)
  | _ => exact hcause

theorem afterRequest_of_decode_ok {q : Request} {i : Instr} (h : decode q = .ok i) (s : State) :
    afterRequest q s = afterInstr i s := by
  simp only [afterRequest, h]

theorem afterRequest_of_decode_error {q : Request} {c : AccessCause} (h : decode q = .error c)
    (s : State) : afterRequest q s = (s.logError c.code).respond true 0 := by
  simp only [afterRequest, h]

/-- The code 7 is no cause's, so a refused request leaves the engine in service too (R151). -/
theorem afterRequest_inService {s : State} (h : s.InService) (q : Request) :
    (afterRequest q s).InService := by
  cases hd : decode q with
  | ok i =>
    rw [afterRequest_of_decode_ok hd]
    exact afterInstr_inService h i
  | error c =>
    obtain ⟨hphase, hcause⟩ := h
    have hcode : c.code ≠ 7#3 := by cases c <;> decide
    refine ⟨by rwa [afterRequest_phase], ?_⟩
    rw [afterRequest_of_decode_error hd, State.respond_cause, State.logError_cause]
    split
    · exact hcause
    · exact hcode

/-- Every request is answered once, legal or refused (R32). -/
theorem exists_afterRequest_response (q : Request) (s : State) :
    ∃ r, (afterRequest q s).response = some r := by
  cases hd : decode q with
  | ok i =>
    obtain ⟨v, hv⟩ := afterInstr_response i s
    exact ⟨⟨false, v⟩, by rw [afterRequest_of_decode_ok hd, hv]⟩
  | error c => exact ⟨⟨true, 0⟩, by rw [afterRequest_of_decode_error hd, State.respond_response]⟩

/-! ### Sequences of requests (R57) -/

/-- The state a sequence of requests leaves, each performed on the state the earlier ones left. -/
def afterRequests (qs : List Request) (s : State) : State :=
  qs.foldl (fun t q => afterRequest q t) s

@[simp] theorem afterRequests_nil (s : State) : afterRequests [] s = s := rfl

@[simp] theorem afterRequests_cons (q : Request) (qs : List Request) (s : State) :
    afterRequests (q :: qs) s = afterRequests qs (afterRequest q s) := rfl

theorem afterRequests_inService {s : State} (h : s.InService) (qs : List Request) :
    (afterRequests qs s).InService := by
  induction qs generalizing s with
  | nil => exact h
  | cons q qs ih => exact ih (afterRequest_inService h q)

/-- From a state in service every sequence is performed to its end, with one response per request. -/
theorem exists_serveAll_of_inService {s : State} (h : s.InService) (qs : List Request) :
    ∃ rs, serveAll qs s = .next (afterRequests qs s, rs) ∧ rs.length = qs.length := by
  induction qs generalizing s with
  | nil => exact ⟨[], rfl, rfl⟩
  | cons q qs ih =>
    obtain ⟨rs, hserve, hlength⟩ := ih (afterRequest_inService h q)
    obtain ⟨r, hr⟩ := exists_afterRequest_response q s
    refine ⟨r :: rs, ?_, congrArg (· + 1) hlength⟩
    rw [serveAll_cons h, hserve, hr]
    rfl

/-- A sequence in two parts: the second goes on from where the first ended, and its responses follow. -/
theorem serveAll_append (qs ps : List Request) (s : State) :
    serveAll (qs ++ ps) s = andThen (serveAll qs s) fun p =>
      andThen (serveAll ps p.1) fun p' => .next (p'.1, p.2 ++ p'.2) := by
  induction qs generalizing s with
  | nil => cases h : serveAll ps s <;> simp [andThen, h]
  | cons q qs ih =>
    simp only [List.cons_append, serveAll]
    cases perform q s with
    | next t =>
      simp only [andThen_next, ih]
      cases serveAll qs t with
      | next p => cases h : serveAll ps p.1 <;> simp [andThen, h]
      | fault f => rfl
      | refused r => rfl
    | fault f => rfl
    | refused r => rfl

/-- The last request of a sequence is performed on the state the earlier ones left, and its response
comes last. -/
theorem exists_serveAll_concat {s : State} (h : s.InService) (qs : List Request) (q : Request) :
    ∃ rs, serveAll (qs ++ [q]) s = .next (afterRequest q (afterRequests qs s), rs) ∧
      rs.getLast? = (afterRequest q (afterRequests qs s)).response := by
  obtain ⟨rs, hserve, -⟩ := exists_serveAll_of_inService h qs
  obtain ⟨r, hr⟩ := exists_afterRequest_response q (afterRequests qs s)
  refine ⟨rs ++ [r], ?_, by rw [hr, List.getLast?_concat]⟩
  rw [serveAll_append, hserve, andThen_next, serveAll_cons (afterRequests_inService h qs), hr]
  rfl

/-! ### What ACC and COUNT hold (R22, R23) -/

/-- ACC and COUNT are those of the byte stream `bs` absorbed since the last INIT. -/
def State.Hashes (s : State) (bs : List Byte) : Prop :=
  s.acc = fnvHash bs ∧ s.count = BitVec.ofNat 32 bs.length

theorem reset_hashes : State.reset.Hashes [] := ⟨rfl, rfl⟩

theorem afterInstr_init_hashes (s : State) : (afterInstr (.wrCtrl true) s).Hashes [] := ⟨rfl, rfl⟩

/-- But for INIT, a transaction moves ACC and COUNT by the bytes it absorbs, if any. -/
theorem afterInstr_acc_count {i : Instr} (h : i ≠ .wrCtrl true) (s : State) :
    (afterInstr i s).acc = fnvFold s.acc (absorbedBytes i) ∧
      (afterInstr i s).count = s.count + BitVec.ofNat 32 (absorbedBytes i).length := by
  have hnone : s.count = s.count + 0#32 := (BitVec.add_zero _).symm
  cases i with
  | wrCtrl i =>
    cases i with
    | false => exact ⟨rfl, hnone⟩
    | true => exact absurd rfl h
  | wrStatus c => cases c <;> exact ⟨rfl, hnone⟩
  | wrData8 b => exact ⟨rfl, rfl⟩
  | wrData32 w => exact ⟨rfl, rfl⟩
  | _ => exact ⟨rfl, hnone⟩

theorem afterInstr_hashes {i : Instr} (hi : i ≠ .wrCtrl true) {s : State} {bs : List Byte}
    (h : s.Hashes bs) : (afterInstr i s).Hashes (bs ++ absorbedBytes i) := by
  obtain ⟨hacc, hcount⟩ := h
  obtain ⟨hacc', hcount'⟩ := afterInstr_acc_count hi s
  constructor
  · rw [hacc', hacc, fnvHash, fnvHash, fnvFold_append]
  · rw [hcount', hcount, List.length_append, BitVec.ofNat_add]

theorem logError_respond_hashes {s : State} {bs : List Byte} (h : s.Hashes bs) (code : BitVec 3) :
    ((s.logError code).respond true 0).Hashes bs := by
  simpa [State.Hashes] using h

/-! One request on the stream, by what it decodes to. -/

theorem streamStep_of_decode_init {q : Request} (h : decode q = .ok (.wrCtrl true))
    (bs : List Byte) : streamStep bs q = [] := by
  simp only [streamStep, h]

theorem streamStep_of_decode_ok {q : Request} {i : Instr} (h : decode q = .ok i)
    (hi : i ≠ .wrCtrl true) (bs : List Byte) : streamStep bs q = bs ++ absorbedBytes i := by
  unfold streamStep
  split
  · next hinit => exact absurd (Except.ok.inj (h.symm.trans hinit)) hi
  · next j _ hj => rw [Except.ok.inj (h.symm.trans hj)]
  · next c hc => cases h.symm.trans hc

theorem streamStep_of_decode_error {q : Request} {c : AccessCause} (h : decode q = .error c)
    (bs : List Byte) : streamStep bs q = bs := by
  simp only [streamStep, h]

/-- Every request, legal or refused, keeps ACC and COUNT those of the stream. -/
theorem afterRequest_hashes {s : State} {bs : List Byte} (h : s.Hashes bs) (q : Request) :
    (afterRequest q s).Hashes (streamStep bs q) := by
  cases hd : decode q with
  | error c =>
    rw [afterRequest_of_decode_error hd, streamStep_of_decode_error hd]
    exact logError_respond_hashes h _
  | ok i =>
    rw [afterRequest_of_decode_ok hd]
    by_cases hi : i = .wrCtrl true
    · subst hi
      rw [streamStep_of_decode_init hd]
      exact afterInstr_init_hashes s
    · rw [streamStep_of_decode_ok hd hi]
      exact afterInstr_hashes hi h

theorem afterRequests_hashes {s : State} {bs : List Byte} (h : s.Hashes bs) (qs : List Request) :
    (afterRequests qs s).Hashes (streamAfter bs qs) := by
  induction qs generalizing s bs with
  | nil => exact h
  | cons q qs ih => exact ih (afterRequest_hashes h q)

/-! ### RD_ID (R130) -/

/-- Settles O17: in service a RD_ID is its effect, the answer alone. -/
theorem rdIdRule : Obligations.RdIdRule :=
  ⟨fun _ hs => exec_of_inService hs _, matches_row_iff_decodeWord_read (i := .rdId) (by decide),
    sizeAndAlignmentRefused _ _, offsetRefused_writeRo (v := 0) (by decide)⟩

/-! ### RD_STATUS (R131) -/

/-- The fields of STATUS: ERR, CAUSE above it, zeros above both (R24). -/
theorem statusWord_fields (err : Bool) (cause : BitVec 3) :
    (statusWord err cause).getLsbD 0 = err ∧ (statusWord err cause).extractLsb' 1 3 = cause ∧
      (statusWord err cause).extractLsb' 4 28 = 0 := by
  revert err cause
  decide

/-- A legal log is empty or holds one of the six causes (R151). -/
theorem statusWord_mem_of_legal {err : Bool} {cause : BitVec 3}
    (hempty : cause = 0#3 ↔ err = false) (hcode : cause ≠ 7#3) :
    statusWord err cause ∈ [0x0, 0x3, 0x5, 0x7, 0x9, 0xB, 0xD] := by
  revert err cause
  decide

/-- Settles O18: in service a RD_STATUS answers the status word; the two runs are the rule's own
examples, evaluated. -/
theorem rdStatusRule : Obligations.RdStatusRule := by
  refine ⟨fun s hs => ?_, matches_row_iff_decodeWord_read (i := .rdStatus) (by decide),
    sizeAndAlignmentRefused _ _, refusalKeepsHash _ _, ⟨_, rfl, rfl⟩, ⟨_, rfl⟩⟩
  obtain ⟨herr, hcause, hzeros⟩ := statusWord_fields s.err s.cause
  exact ⟨statusWord s.err s.cause, exec_of_inService hs _, herr, hcause, hzeros,
    fun ⟨hempty, hcode⟩ => statusWord_mem_of_legal hempty hcode⟩

/-! ### RD_RESULT (R132) -/

/-- A RD_RESULT after any requests from reset answers the hash of the stream they absorbed. -/
theorem exists_serveAll_rdResult (qs : List Request) : ∃ t rs,
    serveAll (qs ++ [Request.ofWord 0x5400000000]) State.reset = .next (t, rs) ∧
    rs.getLast? = some ⟨false, fnvHash (streamAfter [] qs)⟩ := by
  obtain ⟨rs, hserve, hlast⟩ :=
    exists_serveAll_concat reset_inService qs (Request.ofWord 0x5400000000)
  obtain ⟨hacc, -⟩ := afterRequests_hashes reset_hashes qs
  have hdecode : decode (Request.ofWord 0x5400000000) = .ok .rdResult := by decide
  refine ⟨_, rs, hserve, ?_⟩
  rw [hlast, afterRequest_of_decode_ok hdecode, ← hacc]
  rfl

/-- INIT leaves BASIS for the next RD_RESULT. -/
theorem exists_exec_rdResult_after_init {s t : State} (h : exec (.wrCtrl true) s = .next t) :
    ∃ u, exec .rdResult t = .next u ∧ u.response = some ⟨false, 0x811c9dc5⟩ := by
  obtain ⟨hs, rfl⟩ := (exec_eq_next_iff _ s t).1 h
  exact ⟨_, exec_of_inService (afterInstr_inService hs _) _, rfl⟩

/-- Settles O19: in service a RD_RESULT answers ACC, and ACC is the hash of the stream. -/
theorem rdResultRule : Obligations.RdResultRule :=
  ⟨fun _ hs => exec_of_inService hs _, matches_row_iff_decodeWord_read (i := .rdResult) (by decide),
    sizeAndAlignmentRefused _ _, offsetRefused_writeRo (v := 5) (by decide),
    ⟨_, exec_of_inService reset_inService _, rfl⟩, fun _ _ => exists_exec_rdResult_after_init,
    exists_serveAll_rdResult⟩

/-! ### RD_COUNT (R133) -/

/-- After any requests from reset COUNT is the length of the stream, mod 2^32. -/
theorem exists_serveAll_count (qs : List Request) : ∃ t rs,
    serveAll qs State.reset = .next (t, rs) ∧
    t.count.toNat = (streamAfter [] qs).length % 2 ^ 32 := by
  obtain ⟨rs, hserve, -⟩ := exists_serveAll_of_inService reset_inService qs
  obtain ⟨-, hcount⟩ := afterRequests_hashes reset_hashes qs
  exact ⟨_, rs, hserve, by rw [hcount, BitVec.toNat_ofNat]⟩

/-- A request with a cause adds nothing to the stream (R153). -/
theorem streamStep_of_cause {q : Request} (h : cause q ≠ none) (bs : List Byte) :
    streamStep bs q = bs := by
  obtain ⟨c, hc⟩ := Option.ne_none_iff_exists'.1 h
  exact streamStep_of_decode_error ((decode_eq_error_iff q c).2 hc) bs

/-- Settles O20: in service a RD_COUNT answers COUNT, and COUNT is the length of the stream, to which
a refused request adds nothing. -/
theorem rdCountRule : Obligations.RdCountRule :=
  ⟨fun _ hs => exec_of_inService hs _, matches_row_iff_decodeWord_read (i := .rdCount) (by decide),
    sizeAndAlignmentRefused _ _, offsetRefused_writeRo (v := 6) (by decide), exists_serveAll_count,
    fun bs _ h => streamStep_of_cause h bs⟩

/-! ### WR_STATUS (R134) -/

theorem decodeWord_of_matches_wrStatus {word : BitVec 40}
    (h : word &&& 0xFFFFFFFFFE = 0xC800000000) :
    decodeWord word = .ok (.wrStatus (word.getLsbD 0)) := by
  obtain ⟨i, hdecode, hkind, hoperand⟩ := exists_decodeWord_of_matches .wrStatus h
  cases i with
  | wrStatus c =>
    have hbit : word.getLsbD 0 = c := hoperand
    rw [hdecode, hbit]
  | _ => cases hkind

theorem cause_wrStatus_reserved {q : Request} (hwe : q.we = true) (hsize : q.size = 0b10)
    (haddr : q.addr = 0x08) (hbits : q.wdata.extractLsb' 1 31 ≠ 0) :
    cause q = some .reservedBits := by
  obtain ⟨hslot, hlane⟩ := slot_and_lane_of_addr (v := 2) haddr
  exact (cause_eq_reservedBits_iff q).2 ⟨hsize, hlane, hwe, .inl ⟨.inr hslot, hbits⟩⟩

/-- Settles O21: in service a WR_STATUS is its effect on the log; the refusals are those of every
request. -/
theorem wrStatusRule : Obligations.WrStatusRule :=
  ⟨fun _ hs => exec_of_inService hs _, fun _ hs => exec_of_inService hs _,
    fun _ => decodeWord_of_matches_wrStatus, sizeAndAlignmentRefused _ _,
    fun _ => cause_wrStatus_reserved, refusalKeepsHash _ _⟩

end Sys2Proof.Machine
end

section
/-! The order in which a request is checked, said on the numbers of its fields (R152), and the effect of
an access error (R153, R154). -/

namespace Sys2Proof

/-! ### The fields of the checks as numbers (R51, R52, R152) -/

theorem Request.size_eq_wordSize_iff (q : Request) : q.size = wordSize ↔ q.size.toNat = 2 :=
  BitVec.toNat_inj.symm

theorem Request.lane_eq_zero_iff (q : Request) : q.lane = 0 ↔ q.addr.toNat % 4 = 0 := by
  rw [← BitVec.toNat_inj, Request.lane, BitVec.extractLsb'_toNat]
  rfl

theorem Request.toNat_slot (q : Request) : q.slot.toNat = q.addr.toNat / 4 := by
  have haddr : q.addr.toNat < 32 := q.addr.isLt
  rw [Request.slot, BitVec.extractLsb'_toNat, Nat.shiftRight_eq_div_pow]
  omega

theorem Request.slot_eq_iff_toNat (q : Request) (v : BitVec 3) :
    q.slot = v ↔ q.addr.toNat / 4 = v.toNat := by
  rw [← BitVec.toNat_inj, Request.toNat_slot]

/-- The bits of a word from bit `k` up are 0 exactly when the word is less than `2 ^ k`. -/
theorem extractLsb'_high_eq_zero_iff {k n : Nat} (x : BitVec (k + n)) :
    x.extractLsb' k n = 0 ↔ x.toNat / 2 ^ k = 0 := by
  have hlt : x.toNat / 2 ^ k < 2 ^ n :=
    Nat.div_lt_of_lt_mul ((Nat.pow_add 2 k n).symm ▸ x.isLt)
  rw [← BitVec.toNat_inj, BitVec.extractLsb'_toNat, Nat.shiftRight_eq_div_pow,
    Nat.mod_eq_of_lt hlt]
  rfl

/-- cause(q) as a number: the checks of R152 in their order, with the code of each. -/
theorem causeCode_eq_checks (q : Request) : causeCode q =
    if q.size ≠ wordSize then 1
    else if q.lane ≠ 0 then 2
    else if q.slot = 7 then 3
    else if q.we = true ∧ (q.slot = 0 ∨ q.slot = 5 ∨ q.slot = 6) then 4
    else if q.we = false ∧ (q.slot = 1 ∨ q.slot = 3 ∨ q.slot = 4) then 5
    else if q.we = true ∧ (q.slot = 1 ∨ q.slot = 2) ∧ q.wdata.extractLsb' 1 31 ≠ 0 then 6
    else if q.we = true ∧ q.slot = 3 ∧ q.wdata.extractLsb' 8 24 ≠ 0 then 6
    else 0 := by
  unfold causeCode cause
  split_ifs <;> rfl

theorem causeCode_sampled (q : Request) : causeCode q.sampled = causeCode q := by
  rw [causeCode, cause_sampled, causeCode]

/-- Settles O5: each check is the same question about the numbers of the fields, and a read is checked
as the engine keeps it, without its WDATA. -/
theorem causePriority : Obligations.CausePriority := by
  refine ⟨fun q => ?_, fun size addr v v' => ?_⟩
  · have hbit (x : Word) : x.extractLsb' 1 31 = 0 ↔ x.toNat / 2 = 0 :=
      extractLsb'_high_eq_zero_iff (k := 1) (n := 31) x
    have hbyte (x : Word) : x.extractLsb' 8 24 = 0 ↔ x.toNat / 256 = 0 :=
      extractLsb'_high_eq_zero_iff (k := 8) (n := 24) x
    rw [causeCode_eq_checks]
    simp only [ne_eq, Request.size_eq_wordSize_iff, Request.lane_eq_zero_iff,
      Request.slot_eq_iff_toNat, hbit, hbyte, List.mem_cons, List.not_mem_nil, or_false]
    -- what differs now is the slot numbers, `BitVec.toNat 7` for 7
    rfl
  · calc causeCode ⟨false, size, addr, v⟩
        = causeCode ⟨false, size, addr, 0⟩ := (causeCode_sampled ⟨false, size, addr, v⟩).symm
      _ = causeCode ⟨false, size, addr, v'⟩ := causeCode_sampled ⟨false, size, addr, v'⟩

end Sys2Proof

namespace Sys2Proof.Machine

/-! ### The access error (R153, R154) -/

/-- What raising an access error leaves: the first error is kept, the answer is (1, 0), and ACC, COUNT
and the rest stay. -/
theorem logError_respond_eq (s : State) (code : BitVec 3) :
    (s.logError code).respond true 0 =
      { s with
        err := true
        cause := if s.err then s.cause else code
        response := some ⟨true, 0⟩
        outstanding := none } := by
  obtain ⟨acc, count, err, cause, outstanding, response, phase, inputs, draws⟩ := s
  cases err with
  | true => rfl
  | false => rfl

/-- Settles O27: a request with a cause raises its access error, and in service that is its effect. -/
theorem accessErrorEffect : Obligations.AccessErrorEffect := by
  intro q c s hcause hs
  rw [perform_of_cause hcause, accessError_of_inService hs, logError_respond_eq]

end Sys2Proof.Machine
end

section
/-! The encoder against the decoder (R80, R81), what a read's WDATA can change (R35), and the
assembler of `rd`, `wr` and the raw forms (R90). -/

namespace Sys2Proof

/-! ### The operand fields of R84, as WDATA carries them -/

theorem getLsbD_zero_bitWord (b : Bool) : (bitWord b).getLsbD 0 = b := by cases b <;> rfl

theorem extractLsb'_reserved_bitWord (b : Bool) : (bitWord b).extractLsb' 1 31 = 0 := by
  cases b <;> rfl

theorem extractLsb'_low_setWidth (b : Byte) : (b.setWidth 32).extractLsb' 0 8 = b := by
  rw [BitVec.extractLsb'_setWidth_of_le (by decide)]
  exact BitVec.extractLsb'_eq_self

theorem extractLsb'_reserved_setWidth (b : Byte) : (b.setWidth 32).extractLsb' 8 24 = 0 := by
  apply BitVec.eq_of_getLsbD_eq
  simp

/-! ### Decode and encode (R81) -/

/-- The request of a transaction decodes to that transaction. -/
theorem decode_toRequest (i : Instr) : decode i.toRequest = .ok i := by
  rw [decode_eq_ok_cases]
  cases i with
  | wrCtrl i =>
    exact ⟨rfl, .inr <| .inl ⟨rfl, rfl, extractLsb'_reserved_bitWord i,
      congrArg _ (getLsbD_zero_bitWord i).symm⟩⟩
  | wrStatus c =>
    exact ⟨rfl, .inr <| .inr <| .inr <| .inl ⟨rfl, rfl, extractLsb'_reserved_bitWord c,
      congrArg _ (getLsbD_zero_bitWord c).symm⟩⟩
  | wrData8 b =>
    exact ⟨rfl, .inr <| .inr <| .inr <| .inr <| .inl ⟨rfl, rfl, extractLsb'_reserved_setWidth b,
      congrArg _ (extractLsb'_low_setWidth b).symm⟩⟩
  | wrData32 w => simp [Instr.toRequest, writeRequest, wordSize, Reg.offset]
  | _ => simp [Instr.toRequest, readRequest, wordSize, Reg.offset]

/-- Settles O2: a request survives its packing, and the request of a transaction decodes to it. -/
theorem decodeOfEncode : Obligations.DecodeOfEncode := by
  intro i _
  rw [decodeWord, encode, Request.ofWord_toWord, decode_toRequest]

/-- A word whose bits from 1 up are 0 is its bit 0. -/
theorem eq_bitWord_of_reserved {w : Word} (h : w.extractLsb' 1 31 = 0) :
    w = bitWord (w.getLsbD 0) := by
  apply BitVec.eq_of_getLsbD_eq
  intro k hk
  cases k with
  | zero => exact (getLsbD_zero_bitWord _).symm
  | succ k =>
    have hbit := congrArg (fun x => x.getLsbD k) h
    simpa [bitWord, hk, Nat.add_comm 1 k, show k < 31 by omega] using hbit

/-- A word whose bits from 8 up are 0 is its low byte. -/
theorem eq_setWidth_of_reserved {w : Word} (h : w.extractLsb' 8 24 = 0) :
    w = (w.extractLsb' 0 8).setWidth 32 := by
  calc w = w.extractLsb' 8 24 ++ w.extractLsb' 0 8 := by
        rw [BitVec.extractLsb'_append_extractLsb'_eq_extractLsb' (show 8 = 0 + 8 from rfl)]
        exact BitVec.extractLsb'_eq_self.symm
    _ = (w.extractLsb' 0 8).setWidth 32 := by
        rw [h]
        exact (BitVec.setWidth_eq_append (by decide)).symm

/-- The requests that decode to a transaction are, as the engine keeps them, that transaction's own
(R35, R81). -/
theorem decode_eq_ok_iff_sampled (q : Request) (i : Instr) :
    decode q = .ok i ↔ q.sampled = i.toRequest := by
  refine ⟨fun h => ?_, fun h => by rw [← decode_sampled, h, decode_toRequest]⟩
  obtain ⟨hsize, hrow⟩ := (decode_eq_ok_cases q i).1 h
  obtain ⟨we, size, addr, wdata⟩ := q
  rcases hrow with ⟨hwe, haddr, rfl⟩ | ⟨hwe, haddr, hbits, rfl⟩ | ⟨hwe, haddr, rfl⟩ |
    ⟨hwe, haddr, hbits, rfl⟩ | ⟨hwe, haddr, hbits, rfl⟩ | ⟨hwe, haddr, rfl⟩ |
    ⟨hwe, haddr, rfl⟩ | ⟨hwe, haddr, rfl⟩ <;> cases hsize <;> cases hwe <;> cases haddr
  · rfl
  · exact congrArg (writeRequest .ctrl) (eq_bitWord_of_reserved hbits)
  · rfl
  · exact congrArg (writeRequest .status) (eq_bitWord_of_reserved hbits)
  · exact congrArg (writeRequest .data8) (eq_setWidth_of_reserved hbits)
  · rfl
  · rfl
  · rfl

/-- WE, SIZE and ADDR are the upper eight bits of a request word (R80). -/
theorem Request.extractLsb'_high_toWord (q : Request) :
    q.toWord.extractLsb' 32 8 = BitVec.ofBool q.we ++ q.size ++ q.addr :=
  BitVec.extractLsb'_append_eq_left

/-- Settles O3: a write is kept whole, a read without its WDATA. -/
theorem encodeOfDecode : Obligations.EncodeOfDecode := by
  intro word i hdecode
  have hkept : (Request.ofWord word).sampled = i.toRequest :=
    (decode_eq_ok_iff_sampled _ i).1 hdecode
  refine ⟨fun hwrite => ?_, fun _ => ?_⟩
  · rw [encode, ← hkept, Request.sampled_of_write hwrite, Request.toWord_ofWord]
  · calc word.extractLsb' 32 8
        = (Request.ofWord word).toWord.extractLsb' 32 8 := by rw [Request.toWord_ofWord]
      _ = (Request.ofWord word).sampled.toWord.extractLsb' 32 8 := by
        simp only [Request.extractLsb'_high_toWord]; rfl
      _ = (encode i).extractLsb' 32 8 := by rw [hkept, encode]

/-- Settles O7: each word, evaluated. -/
theorem sampleWordsDecode : Obligations.SampleWordsDecode := by
  unfold Obligations.SampleWordsDecode
  decide

/-- A read is kept alike whatever its WDATA is (R35). -/
theorem Request.sampled_with_wdata {q : Request} (h : q.we = false) (v : Word) :
    { q with wdata := v }.sampled = q.sampled := by
  rw [Request.sampled_of_read h, Request.sampled_of_read (q := { q with wdata := v }) h]

end Sys2Proof

namespace Sys2Proof.Machine

/-- Settles O25: each of the five looks at the request as the engine keeps it. -/
theorem readIgnoresWdata : Obligations.ReadIgnoresWdata := by
  intro q v s hread
  have hkept := Request.sampled_with_wdata hread v
  have hdecode : decode { q with wdata := v } = decode q := by
    rw [← decode_sampled, hkept, decode_sampled]
  have hdelay (d : Nat) : responseDelay { q with wdata := v } d = responseDelay q d := by
    unfold responseDelay
    rw [hdecode, hkept]
  refine ⟨hdecode, ?_, ?_, ?_, hdelay⟩
  · rw [← cause_sampled, hkept, cause_sampled]
  · rw [← perform_sampled, hkept, perform_sampled]
  · unfold State.accept
    rw [hkept, hdelay]

/-! ### The assembler (R90) -/

/-- The assembler answers the request of a statement exactly when it has no reason to refuse it. -/
theorem assemble_eq_ok_iff (s : Stmt) (q : Request) :
    assemble s = .ok q ↔ s.wellFormed = true ∧ q = stmtRequest s := by
  unfold assemble
  split
  · next hfits => exact ⟨fun h => ⟨hfits, (Except.ok.inj h).symm⟩, fun ⟨_, h⟩ => congrArg _ h.symm⟩
  · next hrefused => exact ⟨nofun, fun ⟨hfits, _⟩ => absurd hfits hrefused⟩

theorem exists_assemble_iff (s : Stmt) : (∃ q, assemble s = .ok q) ↔ s.wellFormed = true := by
  simp only [assemble_eq_ok_iff, exists_and_left, exists_eq, and_true]

/-- A statement is accepted exactly when it passes each of the five checks. -/
theorem stmt_wellFormed_iff (s : Stmt) : s.wellFormed = true ↔
    s.readsReadable = true ∧ s.writesWritable = true ∧ s.immediateFits = true ∧
      s.reservedClear = true ∧ s.offsetFits = true := by
  simp only [Stmt.wellFormed, Stmt.refusals, List.isEmpty_iff, List.append_eq_nil_iff]
  simp [and_assoc]

theorem wellFormed_rd_iff (r : Reg) : (Stmt.rd r).wellFormed = true ↔ r.readable = true := by
  rw [stmt_wellFormed_iff]
  exact ⟨And.left, fun h => ⟨h, rfl, rfl, rfl, rfl⟩⟩

theorem immediateBound_le (r : Reg) : r.immediateBound ≤ 2 ^ 32 := by cases r <;> decide

/-- Of a `wr` the register and the immediate are looked at: no bound of an immediate is above 2^32.
-/
theorem wellFormed_wr_iff (r : Reg) (imm : Nat) :
    (Stmt.wr r imm).wellFormed = true ↔ r.writable = true ∧ imm < r.immediateBound := by
  have hbound := immediateBound_le r
  rw [stmt_wellFormed_iff]
  simp only [Stmt.readsReadable, Stmt.writesWritable, Stmt.immediateFits, Stmt.reservedClear,
    Stmt.offsetFits, Bool.or_eq_true, decide_eq_true_eq, true_and, and_true]
  refine and_congr_right fun _ => ⟨fun ⟨hfits, hclear⟩ => ?_, fun h => ⟨?_, .inl h⟩⟩ <;> omega

/-- What `rd` assembles is a legal read (R30, R90). -/
theorem exists_decode_readRequest {r : Reg} (h : r.readable = true) :
    ∃ i, decode (readRequest r) = .ok i := by
  cases r with
  | id => exact ⟨_, decode_toRequest .rdId⟩
  | status => exact ⟨_, decode_toRequest .rdStatus⟩
  | result => exact ⟨_, decode_toRequest .rdResult⟩
  | count => exact ⟨_, decode_toRequest .rdCount⟩
  | ctrl => cases h
  | data8 => cases h
  | data32 => cases h

/-- A 1-bit immediate is an operand of R84. -/
theorem exists_ofNat_eq_bitWord {imm : Nat} (h : imm < 2) :
    ∃ b, BitVec.ofNat 32 imm = bitWord b := by
  interval_cases imm
  · exact ⟨false, rfl⟩
  · exact ⟨true, rfl⟩

/-- What `wr` assembles is a legal write (R30, R90). -/
theorem exists_decode_writeRequest {r : Reg} {imm : Nat} (hwritable : r.writable = true)
    (himm : imm < r.immediateBound) :
    ∃ i, decode (writeRequest r (BitVec.ofNat 32 imm)) = .ok i := by
  cases r with
  | ctrl =>
    obtain ⟨b, hb⟩ := exists_ofNat_eq_bitWord himm
    rw [hb]
    exact ⟨_, decode_toRequest (.wrCtrl b)⟩
  | status =>
    obtain ⟨b, hb⟩ := exists_ofNat_eq_bitWord himm
    rw [hb]
    exact ⟨_, decode_toRequest (.wrStatus b)⟩
  | data8 =>
    have hbyte : BitVec.ofNat 32 imm = (BitVec.ofNat 8 imm).setWidth 32 :=
      (BitVec.setWidth_ofNat_of_le_of_lt (by decide) himm).symm
    rw [hbyte]
    exact ⟨_, decode_toRequest (.wrData8 (BitVec.ofNat 8 imm))⟩
  | data32 => exact ⟨_, decode_toRequest (.wrData32 (BitVec.ofNat 32 imm))⟩
  | id => cases hwritable
  | result => cases hwritable
  | count => cases hwritable

theorem exists_sizeBits_eq (v : BitVec 2) : ∃ sz, sizeBits sz = v := by
  have hsizes : v = 0 ∨ v = 1 ∨ v = 2 ∨ v = 3 := by revert v; decide
  rcases hsizes with rfl | rfl | rfl | rfl
  · exact ⟨.byte, rfl⟩
  · exact ⟨.half, rfl⟩
  · exact ⟨.word, rfl⟩
  · exact ⟨.reserved, rfl⟩

/-- The raw forms of a request's fields assemble to it: a read with WDATA 0. -/
theorem exists_raw_assemble (q : Request) : ∃ (sz : SizeCode) (off imm : Nat),
    (q.we = true → assemble (.wrRaw sz off imm) = .ok q) ∧
    (q.we = false → assemble (.rdRaw sz off) = .ok { q with wdata := 0 }) := by
  obtain ⟨we, size, addr, wdata⟩ := q
  obtain ⟨sz, rfl⟩ := exists_sizeBits_eq size
  have hoff : addr.toNat < 32 := addr.isLt
  have himm : wdata.toNat < 2 ^ 32 := wdata.isLt
  refine ⟨sz, addr.toNat, wdata.toNat, ?_, ?_⟩
  · rintro rfl
    have hfits : (Stmt.wrRaw sz addr.toNat wdata.toNat).wellFormed = true :=
      (stmt_wellFormed_iff _).2 ⟨rfl, rfl, decide_eq_true himm, rfl, decide_eq_true hoff⟩
    exact (assemble_eq_ok_iff _ _).2 ⟨hfits, by simp [stmtRequest]⟩
  · rintro rfl
    have hfits : (Stmt.rdRaw sz addr.toNat).wellFormed = true :=
      (stmt_wellFormed_iff _).2 ⟨rfl, rfl, rfl, rfl, decide_eq_true hoff⟩
    exact (assemble_eq_ok_iff _ _).2 ⟨hfits, by simp [stmtRequest]⟩

/-- Settles O36: what the checks leave of `rd` and `wr`, register by register; what is left is a
legal request, and the raw forms have no check but the ranges. -/
theorem assemblerAcceptsLegalOnly : Obligations.AssemblerAcceptsLegalOnly := by
  refine ⟨fun r => ?_, fun r imm => ?_, fun r q h => ?_, fun r imm q h => ?_, exists_raw_assemble⟩
  · rw [exists_assemble_iff, wellFormed_rd_iff]
    cases r <;> decide
  · rw [exists_assemble_iff, wellFormed_wr_iff]
    cases r <;> simp [Reg.writable, Reg.immediateBound]
  · obtain ⟨hfits, rfl⟩ := (assemble_eq_ok_iff _ _).1 h
    exact exists_decode_readRequest ((wellFormed_rd_iff r).1 hfits)
  · obtain ⟨hfits, rfl⟩ := (assemble_eq_ok_iff _ _).1 h
    obtain ⟨hwritable, himm⟩ := (wellFormed_wr_iff r imm).1 hfits
    have hlt : imm < 2 ^ 32 := Nat.lt_of_lt_of_le himm (immediateBound_le r)
    exact ⟨Nat.mod_eq_of_lt hlt, exists_decode_writeRequest hwritable himm⟩

end Sys2Proof.Machine
end

section
/-! The absorb step as an invertible function (R104 to R106), what a change of one byte does to the
hash and to a file's verdict (R112), and what of a file the verdict depends on (R64 to R68). -/

namespace Sys2Proof.Machine

/-! ### The byte and the multiplier (R104, R105) -/

theorem extractLsb'_high_zext32 (b : Byte) : (zext32 b).extractLsb' 8 24 = 0 :=
  extractLsb'_reserved_setWidth b

theorem extractLsb'_low_zext32 (b : Byte) : (zext32 b).extractLsb' 0 8 = b :=
  extractLsb'_low_setWidth b

/-- Settles O10: the extended byte has zeros above bit 7. -/
theorem byteIsZeroExtended : Obligations.ByteIsZeroExtended := by
  refine ⟨fun acc b => ⟨?_, ?_⟩, by decide, by decide⟩
  · rw [BitVec.extractLsb'_xor, extractLsb'_high_zext32]
    exact BitVec.xor_zero
  · rw [BitVec.extractLsb'_xor, extractLsb'_low_zext32]

/-- The product with PRIME, a shift for each bit of PRIME that is set (R105). -/
theorem prime_mul_eq_shiftAdd (x : Word) : Config.prime * x = shiftAdd x := by
  have hprime : Config.prime = BitVec.twoPow 32 24 + BitVec.twoPow 32 8 + BitVec.twoPow 32 7 +
      BitVec.twoPow 32 4 + BitVec.twoPow 32 1 + 1 := by decide
  rw [hprime]
  simp only [shiftAdd, BitVec.shiftLeft_eq_mul_twoPow]
  ring

/-- Settles O11: the binary expansion of PRIME, multiplied out. -/
theorem shiftAddMultiplier : Obligations.ShiftAddMultiplier :=
  ⟨by decide, prime_mul_eq_shiftAdd⟩

/-! ### The step undone (R106) -/

theorem primeInv_mul_prime : Config.primeInv * Config.prime = 1 := by decide

theorem prime_mul_primeInv : Config.prime * Config.primeInv = 1 := by decide

/-- Multiplying by PRIME_INV uncovers the XOR of a step. -/
theorem primeInv_mul_fnvStep (acc : Word) (b : Byte) :
    Config.primeInv * fnvStep acc b = acc ^^^ zext32 b := by
  rw [fnvStep, ← BitVec.mul_assoc, primeInv_mul_prime, one_mul]

theorem fnvUnstep_fnvStep (acc : Word) (b : Byte) : fnvUnstep (fnvStep acc b) b = acc := by
  rw [fnvUnstep, primeInv_mul_fnvStep, BitVec.xor_assoc, BitVec.xor_self, BitVec.xor_zero]

theorem fnvStep_fnvUnstep (acc : Word) (b : Byte) : fnvStep (fnvUnstep acc b) b = acc := by
  rw [fnvStep, fnvUnstep, BitVec.xor_assoc, BitVec.xor_self, BitVec.xor_zero, ← BitVec.mul_assoc,
    prime_mul_primeInv, one_mul]

theorem fnvStep_bijective (b : Byte) : Function.Bijective (fun acc : Word => fnvStep acc b) :=
  Function.bijective_iff_has_inverse.2
    ⟨fun acc => fnvUnstep acc b, fun acc => fnvUnstep_fnvStep acc b,
      fun acc => fnvStep_fnvUnstep acc b⟩

/-- Two bytes that step alike leave the same XOR, in whose low bits the byte can be read. -/
theorem fnvStep_injective_byte (acc : Word) :
    Function.Injective (fun b : Byte => fnvStep acc b) := by
  intro b b' h
  have hxor : acc ^^^ zext32 b = acc ^^^ zext32 b' := by
    rw [← primeInv_mul_fnvStep, ← primeInv_mul_fnvStep]
    exact congrArg _ h
  have hzext : zext32 b = zext32 b' := (BitVec.xor_right_inj acc).1 hxor
  rw [← extractLsb'_low_zext32 b, hzext, extractLsb'_low_zext32]

/-- Settles O12: `fnvUnstep` is the step's inverse on both sides. -/
theorem absorbStepInvertible : Obligations.AbsorbStepInvertible :=
  ⟨prime_mul_primeInv, fnvStep_bijective, fnvStep_injective_byte,
    fun acc b => (fnvUnstep_fnvStep acc b).symm⟩

/-! ### One changed byte (R112) -/

/-- What follows keeps two accumulators apart, for every step is injective. -/
theorem fnvFold_injective (bs : List Byte) :
    Function.Injective (fun acc : Word => fnvFold acc bs) := by
  induction bs with
  | nil => exact fun _ _ h => h
  | cons b bs ih => exact ih.comp (fnvStep_bijective b).injective

theorem fnvHash_ne_of_byte_ne (front back : List Byte) {b b' : Byte} (h : b ≠ b') :
    fnvHash (front ++ b :: back) ≠ fnvHash (front ++ b' :: back) := by
  intro heq
  rw [fnvHash, fnvHash, fnvFold_append, fnvFold_append] at heq
  exact h (fnvStep_injective_byte _ (fnvFold_injective back heq))

theorem fnvHash_set_ne {bs : List Byte} {i : Nat} {b : Byte} (hi : i < bs.length)
    (h : b ≠ bs[i]) : fnvHash (bs.set i b) ≠ fnvHash bs := by
  have hsplit : bs = bs.take i ++ bs[i] :: bs.drop (i + 1) := by simp
  rw [List.set_eq_take_append_cons_drop, if_pos hi]
  conv_rhs => rw [hsplit]
  exact fnvHash_ne_of_byte_ne _ _ h

/-- A file gets a report exactly when it holds the field, and the report is that of its own hash. -/
theorem verify_eq_ok_iff (f : List Byte) (r : Report) : verify f = .ok r ↔
    minimumLength ≤ f.length ∧ r = reportOf f (fnvHash (hashedRegion f)) := by
  by_cases hlen : minimumLength ≤ f.length
  · simp [verify_of_le hlen, hlen, eq_comm]
  · simp [verify_of_lt (Nat.not_le.1 hlen), hlen]

theorem fileByte_set_of_ne {f : List Byte} {i j : Nat} (h : i ≠ j) (b : Byte) :
    fileByte (f.set i b) j = fileByte f j := by
  rw [fileByte, fileByte, List.getD_eq_getElem?_getD, List.getElem?_set_ne h,
    ← List.getD_eq_getElem?_getD]

/-- The field lies behind the hashed region, so a change in the region leaves it. -/
theorem storedField_set {f : List Byte} {i : Nat} (h : i < fieldOffset) (b : Byte) :
    storedField (f.set i b) = storedField f := by
  have hbyte (k : Nat) : fileByte (f.set i b) (fieldOffset + k) = fileByte f (fieldOffset + k) :=
    fileByte_set_of_ne (by omega) b
  have hfirst := hbyte 0
  rw [Nat.add_zero] at hfirst
  rw [storedField, storedField, fileWord, fileWord, hfirst, hbyte, hbyte, hbyte]

/-- A change of one byte of the hashed region changes the expected checksum. -/
theorem fnvHash_hashedRegion_set_ne {f : List Byte} (hlen : minimumLength ≤ f.length) {i : Nat}
    {b : Byte} (hi : i < fieldOffset) (hb : b ≠ f.getD i 0) :
    fnvHash (hashedRegion (f.set i b)) ≠ fnvHash (hashedRegion f) := by
  have hfield := fieldOffset_le_of_minimumLength_le hlen
  have hregion : i < (hashedRegion f).length := by
    rwa [hashedRegion, List.length_take_of_le hfield]
  have hin : i < f.length := Nat.lt_of_lt_of_le hi hfield
  have hold : f.getD i 0 = (hashedRegion f)[i] := by
    simp only [hashedRegion, List.getElem_take, List.getD_eq_getElem _ _ hin]
  rw [hashedRegion, List.take_set]
  exact fnvHash_set_ne hregion (hold ▸ hb)

/-- Settles O13: every step is injective in the byte and in what came before; the two colliding
sequences are evaluated. -/
theorem singleByteSensitivity : Obligations.SingleByteSensitivity := by
  refine ⟨fun front back b b' h => fnvHash_ne_of_byte_ne front back h,
    fun f r i b hr hvalid hi hb => ?_,
    [0xC5, 0xE7, 0x32, 0xA5], [0xF3, 0x3F, 0x39, 0x8A], by decide⟩
  obtain ⟨hlen, rfl⟩ := (verify_eq_ok_iff f r).1 hr
  have hstored := (reportOf_verdict_eq_valid_iff f _).1 hvalid
  have hlen' : minimumLength ≤ (f.set i b).length := by rwa [List.length_set]
  refine ⟨_, verify_of_le hlen', if_neg ?_⟩
  rw [storedField_set hi, hstored]
  exact (fnvHash_hashedRegion_set_ne hlen hi hb).symm

/-! ### What the verdict depends on (R64 to R68) -/

theorem fileByte_take {n i : Nat} (h : i < n) (f : List Byte) :
    fileByte (f.take n) i = fileByte f i := by
  rw [fileByte, fileByte, List.getD_eq_getElem?_getD, List.getElem?_take_of_lt h,
    ← List.getD_eq_getElem?_getD]

/-- The field ends where the least length does. -/
theorem storedField_take (f : List Byte) : storedField (f.take minimumLength) = storedField f := by
  rw [storedField, storedField, fileWord, fileWord, fileByte_take (by decide),
    fileByte_take (by decide), fileByte_take (by decide), fileByte_take (by decide)]

theorem hashedRegion_take (f : List Byte) : hashedRegion (f.take minimumLength) = hashedRegion f :=
  List.take_take.trans (congrArg (f.take ·) (Nat.min_eq_left (by decide)))

theorem reportOf_sizeMismatch_iff (f : List Byte) (expected : Word) :
    (reportOf f expected).sizeMismatch = true ↔ f.length ≠ 800 := bne_iff_ne

/-- Settles O41: the field and the hashed region lie inside the first 0x310 bytes; the length is
used for the warning only. -/
theorem lengthOnlyWarns : Obligations.LengthOnlyWarns := by
  intro f g hf htake
  have hg : minimumLength ≤ g.length := by
    have hlength := congrArg List.length htake
    simp only [List.length_take] at hlength
    show 0x310 ≤ g.length
    omega
  have hstored : storedField f = storedField g := by
    rw [← storedField_take f, ← storedField_take g]
    exact congrArg _ htake.symm
  have hregion : hashedRegion f = hashedRegion g := by
    rw [← hashedRegion_take f, ← hashedRegion_take g]
    exact congrArg _ htake.symm
  refine ⟨_, _, verify_of_le hf, verify_of_le hg, reportOf_sizeMismatch_iff f _,
    reportOf_sizeMismatch_iff g _, hstored, congrArg fnvHash hregion, ?_,
    reportOf_verdict_eq_valid_iff f _⟩
  simp only [reportOf, hstored, hregion]

end Sys2Proof.Machine
end

section
/-! What a transaction and a refusal do to the registers, and what they depend on (R86, R150 to
R154); WR_DATA32 (R110); sequences of requests: the stream they hash (R57), the reads among them
(R56), and what the error log tells of them (R192). -/

namespace Sys2Proof.Machine

/-! ### The hash of the accepted stream (R22, R23, R57) -/

/-- Settles O32: each request keeps ACC and COUNT those of the stream, and from a state in service
every one is answered. -/
theorem engineHashesItsStream : Obligations.EngineHashesItsStream := by
  intro bs qs s hs hacc hcount
  obtain ⟨rs, hserve, hlength⟩ := exists_serveAll_of_inService hs qs
  obtain ⟨hacc', hcount'⟩ := afterRequests_hashes ⟨hacc, hcount⟩ qs
  exact ⟨_, rs, hserve, afterRequests_inService hs qs, hlength, hacc', hcount'⟩

/-! ### The frame of a transaction (R108 to R110, R130 to R134) -/

/-- A transaction that is no INIT and absorbs nothing leaves ACC and COUNT. -/
theorem afterInstr_keeps_hash {i : Instr} (hinit : i ≠ .wrCtrl true) (hbytes : absorbedBytes i = [])
    (s : State) : (afterInstr i s).acc = s.acc ∧ (afterInstr i s).count = s.count := by
  obtain ⟨hacc, hcount⟩ := afterInstr_acc_count hinit s
  rw [hbytes] at hacc hcount
  exact ⟨hacc, hcount.trans (BitVec.add_zero _)⟩

/-- Only the WR_STATUS that clears it moves the error log. -/
theorem afterInstr_keeps_log {i : Instr} (h : i ≠ .wrStatus true) (s : State) :
    (afterInstr i s).err = s.err ∧ (afterInstr i s).cause = s.cause := by
  cases i with
  | wrCtrl i => cases i <;> exact ⟨rfl, rfl⟩
  | wrStatus c =>
    cases c with
    | false => exact ⟨rfl, rfl⟩
    | true => exact absurd rfl h
  | _ => exact ⟨rfl, rfl⟩

theorem absorbedBytes_eq_nil_of_kind {i : Instr} (h : i.kind ∉ [.wrCtrl, .wrData8, .wrData32]) :
    i ≠ .wrCtrl true ∧ absorbedBytes i = [] := by
  cases i with
  | wrCtrl i => exact absurd (by simp [Instr.kind]) h
  | wrData8 b => exact absurd (by simp [Instr.kind]) h
  | wrData32 w => exact absurd (by simp [Instr.kind]) h
  | _ => exact ⟨nofun, rfl⟩

/-- Settles O24: a transaction that answers a next state has left its effect, which has this frame.
-/
theorem transactionFrame : Obligations.TransactionFrame := by
  intro i s t h
  obtain ⟨-, rfl⟩ := (exec_eq_next_iff i s t).1 h
  refine ⟨fun hkind => ?_, fun hkind => afterInstr_keeps_log ?_ s, afterInstr_phase i s,
    afterInstr_inputs i s, afterInstr_draws i s⟩
  · obtain ⟨hinit, hbytes⟩ := absorbedBytes_eq_nil_of_kind hkind
    exact afterInstr_keeps_hash hinit hbytes s
  · rintro rfl
    exact hkind rfl

/-- Settles O23: a legal request is performed as its transaction, whose answer carries no error. -/
theorem legalRequestsNeverError : Obligations.LegalRequestsNeverError := by
  intro q i s hdecode hs
  obtain ⟨v, hv⟩ := afterInstr_response i s
  refine ⟨afterInstr i s, v, ?_, exec_of_inService hs i, hv, afterInstr_outstanding i s,
    afterInstr_inService hs i⟩
  rw [perform_of_inService hs, afterRequest_of_decode_ok hdecode]

/-- Settles O49: INIT writes the reset values of ACC and COUNT, and leaves the log. -/
theorem resetAgreesWithInit : Obligations.ResetAgreesWithInit := by
  refine ⟨fun s t h => ?_, rfl, rfl, _, exec_of_inService reset_inService _, rfl⟩
  obtain ⟨-, rfl⟩ := (exec_eq_next_iff _ s t).1 h
  exact ⟨rfl, rfl, afterInstr_keeps_log (i := .wrCtrl true) nofun s⟩

/-! ### The registers alone decide (R86) -/

/-- Two states with the same four registers of R20. -/
def State.SameRegisters (s t : State) : Prop :=
  s.acc = t.acc ∧ s.count = t.count ∧ s.err = t.err ∧ s.cause = t.cause

theorem State.SameRegisters.refl (s : State) : s.SameRegisters s := ⟨rfl, rfl, rfl, rfl⟩

theorem afterInstr_sameRegisters {s t : State} (h : s.SameRegisters t) (i : Instr) :
    (afterInstr i s).SameRegisters (afterInstr i t) ∧
      (afterInstr i s).response = (afterInstr i t).response := by
  obtain ⟨hacc, hcount, herr, hcause⟩ := h
  cases i with
  | wrCtrl i => cases i <;> simp [afterInstr, State.SameRegisters, *]
  | wrStatus c => cases c <;> simp [afterInstr, State.SameRegisters, *]
  | _ => simp [afterInstr, State.SameRegisters, *]

/-- A request does the same to the registers, and answers the same, wherever the registers are the
same. -/
theorem afterRequest_sameRegisters {s t : State} (h : s.SameRegisters t) (q : Request) :
    (afterRequest q s).SameRegisters (afterRequest q t) ∧
      (afterRequest q s).response = (afterRequest q t).response := by
  cases hd : decode q with
  | ok i =>
    rw [afterRequest_of_decode_ok hd, afterRequest_of_decode_ok hd]
    exact afterInstr_sameRegisters h i
  | error c =>
    obtain ⟨hacc, hcount, herr, hcause⟩ := h
    rw [afterRequest_of_decode_error hd, afterRequest_of_decode_error hd]
    simp [State.SameRegisters, *]

/-- Settles O26: in service every request answers, and its effect depends on the registers alone. -/
theorem transactionDependsOnRegistersOnly : Obligations.TransactionDependsOnRegistersOnly := by
  intro q s s' hs hs' hacc hcount herr hcause
  obtain ⟨hregisters, hresponse⟩ := afterRequest_sameRegisters ⟨hacc, hcount, herr, hcause⟩ q
  exact ⟨_, _, perform_of_inService hs q, perform_of_inService hs' q, hresponse, hregisters⟩

/-! ### The cause codes (R151) -/

theorem accessCause_code_injective : Function.Injective AccessCause.code := by
  intro c c'
  cases c <;> cases c' <;> decide

theorem accessCause_code_legal (c : AccessCause) : c.code ≠ 0#3 ∧ c.code ≠ 7#3 := by
  cases c <;> decide

theorem causeCode_of_cause {q : Request} {c : AccessCause} (h : cause q = some c) :
    causeCode q = c.code := by
  simp only [causeCode, h]

theorem causeCode_of_legal {q : Request} (h : cause q = none) : causeCode q = 0 := by
  simp only [causeCode, h]

theorem cause_eq_none_iff (q : Request) : cause q = none ↔ ∃ i, decode q = .ok i := by
  refine ⟨fun h => ?_, fun ⟨i, hi⟩ => ((decode_eq_ok_iff q i).1 hi).1⟩
  obtain ⟨i, hi⟩ := selected_of_cause_eq_none h
  exact ⟨i, (decode_eq_ok_iff q i).2 ⟨h, hi⟩⟩

/-- Settles O28: no cause has the code 0 or 7, so 0 is left for the legal requests. -/
theorem causeCodes : Obligations.CauseCodes := by
  refine ⟨rfl, rfl, rfl, rfl, rfl, rfl, accessCause_code_injective, fun q => ?_⟩
  rw [← cause_eq_none_iff]
  cases hcause : cause q with
  | none =>
    rw [causeCode_of_legal hcause]
    exact ⟨by decide, iff_of_true rfl rfl⟩
  | some c =>
    obtain ⟨hzero, hseven⟩ := accessCause_code_legal c
    rw [causeCode_of_cause hcause]
    exact ⟨hseven, iff_of_false hzero nofun⟩

/-! ### Absorbs, and WR_DATA32 (R110, R111) -/

theorem afterRequest_toRequest (i : Instr) (s : State) :
    afterRequest i.toRequest s = afterInstr i s :=
  afterRequest_of_decode_ok (decode_toRequest i) s

theorem ne_init_of_isAbsorb {i : Instr} (h : isAbsorb i = true) : i ≠ .wrCtrl true := by
  rintro rfl
  cases h

theorem fedBytes_cons (i : Instr) (is : List Instr) :
    fedBytes (i :: is) = absorbedBytes i ++ fedBytes is := rfl

/-- Absorbs fold the bytes they feed into ACC, from any state, and count them. -/
theorem afterRequests_absorbs {absorbs : List Instr} (h : absorbs.all isAbsorb = true) (s : State) :
    (afterRequests (absorbs.map Instr.toRequest) s).acc = fnvFold s.acc (fedBytes absorbs) ∧
      (afterRequests (absorbs.map Instr.toRequest) s).count =
        s.count + BitVec.ofNat 32 (fedBytes absorbs).length := by
  induction absorbs generalizing s with
  | nil => exact ⟨rfl, (BitVec.add_zero _).symm⟩
  | cons i is ih =>
    rw [List.all_cons, Bool.and_eq_true] at h
    obtain ⟨hi, his⟩ := h
    obtain ⟨hacc, hcount⟩ := afterInstr_acc_count (ne_init_of_isAbsorb hi) s
    obtain ⟨hacc', hcount'⟩ := ih his (afterInstr i s)
    rw [List.map_cons, afterRequests_cons, afterRequest_toRequest, fedBytes_cons]
    constructor
    · rw [hacc', hacc, fnvFold_append]
    · rw [hcount', hcount, List.length_append, BitVec.ofNat_add, BitVec.add_assoc]

theorem decodeWord_of_matches_wrData32 {word : BitVec 40}
    (h : word &&& 0xFF00000000 = 0xD000000000) :
    decodeWord word = .ok (.wrData32 (word.extractLsb' 0 32)) := by
  obtain ⟨i, hdecode, hkind, hoperand⟩ := exists_decodeWord_of_matches .wrData32 h
  cases i with
  | wrData32 w =>
    have hword : word.extractLsb' 0 32 = w := hoperand
    rw [hdecode, hword]
  | _ => cases hkind

theorem cause_wrData32 {q : Request} (hwe : q.we = true) (hsize : q.size = 0b10)
    (haddr : q.addr = 0x10) : cause q = none := by
  have hkept : q.sampled = (Instr.wrData32 q.wdata).toRequest := by
    rw [Request.sampled_of_write hwe, Instr.toRequest, writeRequest, ← hwe]
    exact congrArg₂ (Request.mk q.we · · q.wdata) hsize haddr
  exact (cause_eq_none_iff q).2 ⟨_, (decode_eq_ok_iff_sampled q _).2 hkept⟩

/-- The four WR_DATA8 of a word's bytes leave ACC and COUNT as its WR_DATA32 does (R110). -/
theorem exists_serveAll_four_wrData8 {w : Word} {s t : State} (h : exec (.wrData32 w) s = .next t) :
    ∃ u rs, serveAll ((dataBytes w).map (fun b => (Instr.wrData8 b).toRequest)) s = .next (u, rs) ∧
      u.acc = t.acc ∧ u.count = t.count := by
  obtain ⟨hs, rfl⟩ := (exec_eq_next_iff _ s t).1 h
  obtain ⟨rs, hserve, -⟩ := exists_serveAll_of_inService hs
    ((dataBytes w).map (fun b => (Instr.wrData8 b).toRequest))
  exact ⟨_, rs, hserve, afterRequests_absorbs (absorbs := (dataBytes w).map Instr.wrData8) rfl s⟩

/-- Settles O16: in service a WR_DATA32 is its effect; the refusals are those of every request. -/
theorem wrData32Rule : Obligations.WrData32Rule := by
  refine ⟨fun w s hs => exec_of_inService hs _, fun _ => decodeWord_of_matches_wrData32,
    sizeAndAlignmentRefused _ _, fun _ => cause_wrData32, refusalKeepsHash _ _,
    fun _ _ _ => exists_serveAll_four_wrData8, fun s hs hacc hcount => ⟨?_, ?_⟩,
    by decide, by decide, by decide, by decide⟩
  · obtain ⟨hacc', hcount'⟩ := afterInstr_acc_count (i := .wrData32 0) nofun s
    refine ⟨_, exec_of_inService hs _, ?_, ?_⟩
    · rw [hacc', hacc]
      decide
    · rw [hcount', hcount]
      rfl
  · obtain ⟨hacc', -⟩ := afterInstr_acc_count (i := .wrData32 0x666F6F62) nofun s
    refine ⟨_, exec_of_inService hs _, ?_⟩
    rw [hacc', hacc]
    decide

/-! ### Reads in a sequence (R56) -/

theorem afterRequests_sameRegisters {s t : State} (h : s.SameRegisters t) (qs : List Request) :
    (afterRequests qs s).SameRegisters (afterRequests qs t) := by
  induction qs generalizing s t with
  | nil => exact h
  | cons q qs ih => exact ih (afterRequest_sameRegisters h q).1

theorem afterRequests_append (qs ps : List Request) (s : State) :
    afterRequests (qs ++ ps) s = afterRequests ps (afterRequests qs s) := List.foldl_append

/-- A read leaves the four registers as they were. -/
theorem afterRequest_read_sameRegisters {i : Instr}
    (hread : i ∈ [.rdId, .rdStatus, .rdResult, .rdCount]) (s : State) :
    (afterRequest i.toRequest s).SameRegisters s := by
  have hi : i ∈ [.wrCtrl false, .wrStatus false, .rdId, .rdStatus, .rdResult, .rdCount] :=
    List.mem_cons_of_mem _ (List.mem_cons_of_mem _ hread)
  obtain ⟨v, -, hafter⟩ := afterInstr_of_mem_unchanging s hi
  rw [afterRequest_toRequest, hafter]
  exact .refl s

/-- Settles O35: with and without the read, what follows starts from the same registers. -/
theorem readsCanBeDropped : Obligations.ReadsCanBeDropped := by
  intro i before after s hs hread
  obtain ⟨rs, hwith, -⟩ := exists_serveAll_of_inService hs (before ++ i.toRequest :: after)
  obtain ⟨rs', hwithout, -⟩ := exists_serveAll_of_inService hs (before ++ after)
  refine ⟨_, rs, _, rs', hwith, hwithout, ?_⟩
  rw [afterRequests_append, afterRequests_append, afterRequests_cons]
  exact afterRequests_sameRegisters (afterRequest_read_sameRegisters hread _) after

/-! ### What the responses and the log tell of a sequence (R153, R154, R192) -/

/-- A response carries an error exactly when its request has a cause. -/
theorem afterRequest_response_err {q : Request} {s : State} {r : Response}
    (h : (afterRequest q s).response = some r) : r.err = false ↔ cause q = none := by
  cases hd : decode q with
  | ok i =>
    obtain ⟨v, hv⟩ := afterInstr_response i s
    rw [afterRequest_of_decode_ok hd, hv] at h
    cases h
    exact iff_of_true rfl ((cause_eq_none_iff q).2 ⟨i, hd⟩)
  | error c =>
    rw [afterRequest_of_decode_error hd, State.respond_response] at h
    cases h
    exact iff_of_false nofun (by simp [(decode_eq_error_iff q c).1 hd])

/-- A sequence's responses are its first request's and those of the rest. -/
theorem serveAll_cons_eq_next {q : Request} {qs : List Request} {s : State} (hs : s.InService)
    {t : State} {rs : List Response} (h : serveAll (q :: qs) s = .next (t, rs)) :
    ∃ r rs', (afterRequest q s).response = some r ∧
      serveAll qs (afterRequest q s) = .next (t, rs') ∧ rs = r :: rs' := by
  rw [serveAll_cons hs, andThen_eq_next_iff] at h
  obtain ⟨⟨t', rs'⟩, hrest, heq⟩ := h
  obtain ⟨r, hr⟩ := exists_afterRequest_response q s
  rw [hr] at heq
  cases heq
  exact ⟨r, rs', hr, hrest, rfl⟩

/-- A call is clean exactly when each of its requests is legal. -/
theorem cleanCall_iff {qs : List Request} {s t : State} {rs : List Response} (hs : s.InService)
    (h : serveAll qs s = .next (t, rs)) : cleanCall rs = true ↔ ∀ q ∈ qs, cause q = none := by
  induction qs generalizing s rs with
  | nil =>
    cases h
    simp [cleanCall]
  | cons q qs ih =>
    obtain ⟨r, rs', hr, hrest, rfl⟩ := serveAll_cons_eq_next hs h
    have htail := ih (afterRequest_inService hs q) hrest
    rw [List.forall_mem_cons, ← htail, ← afterRequest_response_err hr]
    simp [cleanCall]

/-- A request that does not clear the log keeps the error it holds. -/
theorem afterRequest_log_of_err {q : Request} (hq : decode q ≠ .ok (.wrStatus true)) {s : State}
    (herr : s.err = true) : (afterRequest q s).err = true ∧ (afterRequest q s).cause = s.cause := by
  cases hd : decode q with
  | ok i =>
    have hi : i ≠ .wrStatus true := by
      rintro rfl
      exact hq hd
    obtain ⟨herr', hcause'⟩ := afterInstr_keeps_log hi s
    rw [afterRequest_of_decode_ok hd]
    exact ⟨herr'.trans herr, hcause'⟩
  | error c =>
    rw [afterRequest_of_decode_error hd]
    simp [herr]

theorem keepsLog_cons (q : Request) (qs : List Request) :
    keepsLog (q :: qs) = true ↔ decode q ≠ .ok (.wrStatus true) ∧ keepsLog qs = true := by
  rw [keepsLog, List.all_cons, Bool.and_eq_true, decide_eq_true_eq]
  exact Iff.rfl

/-- Once an error is logged, requests that do not clear the log keep it. -/
theorem afterRequests_log_of_err {qs : List Request} (hqs : keepsLog qs = true) {s : State}
    (herr : s.err = true) :
    (afterRequests qs s).err = true ∧ (afterRequests qs s).cause = s.cause := by
  induction qs generalizing s with
  | nil => exact ⟨herr, rfl⟩
  | cons q qs ih =>
    obtain ⟨hq, hrest⟩ := (keepsLog_cons q qs).1 hqs
    obtain ⟨herr', hcause'⟩ := afterRequest_log_of_err hq herr
    obtain ⟨herr'', hcause''⟩ := ih hrest herr'
    exact ⟨herr'', hcause''.trans hcause'⟩

/-- A refused request with an empty log logs its cause. -/
theorem afterRequest_log_of_cause {q : Request} {c : AccessCause} (hc : cause q = some c)
    {s : State} (herr : s.err = false) :
    (afterRequest q s).err = true ∧ (afterRequest q s).cause = c.code := by
  rw [afterRequest_of_decode_error ((decode_eq_error_iff q c).2 hc)]
  simp [herr]

/-- A legal request leaves an empty log empty. -/
theorem afterRequest_err_of_legal {q : Request} (hc : cause q = none) {s : State}
    (herr : s.err = false) : (afterRequest q s).err = false := by
  obtain ⟨i, hd⟩ := (cause_eq_none_iff q).1 hc
  rw [afterRequest_of_decode_ok hd]
  by_cases hi : i = .wrStatus true
  · subst hi
    rfl
  · exact (afterInstr_keeps_log hi s).1.trans herr

/-- Legal requests leave an empty log empty. -/
theorem afterRequests_err_of_legal {qs : List Request} (hqs : ∀ q ∈ qs, cause q = none) {s : State}
    (herr : s.err = false) : (afterRequests qs s).err = false := by
  induction qs generalizing s with
  | nil => exact herr
  | cons q qs ih =>
    obtain ⟨hq, hrest⟩ := List.forall_mem_cons.1 hqs
    exact ih hrest (afterRequest_err_of_legal hq herr)

/-- The first refused request of a sequence that does not clear the log is the one the log tells of.
-/
theorem afterRequests_log_of_findSome? {qs : List Request} (hqs : keepsLog qs = true)
    {c : AccessCause} (hc : qs.findSome? cause = some c) {s : State} (herr : s.err = false) :
    (afterRequests qs s).err = true ∧ (afterRequests qs s).cause = c.code := by
  induction qs generalizing s with
  | nil => cases hc
  | cons q qs ih =>
    obtain ⟨-, hrest⟩ := (keepsLog_cons q qs).1 hqs
    cases hq : cause q with
    | none =>
      rw [List.findSome?_cons, hq] at hc
      exact ih hrest hc (afterRequest_err_of_legal hq herr)
    | some c' =>
      rw [List.findSome?_cons, hq] at hc
      cases hc
      obtain ⟨herr', hcause'⟩ := afterRequest_log_of_cause hq herr
      obtain ⟨herr'', hcause''⟩ := afterRequests_log_of_err hrest herr'
      exact ⟨herr'', hcause''.trans hcause'⟩

/-- Settles O31: a call is clean when all its requests are legal, and then logs nothing; else the
first refused one fills the log. -/
theorem logTellsWhetherACallWasClean : Obligations.LogTellsWhetherACallWasClean := by
  intro qs s hs herr hqs
  obtain ⟨rs, hserve, hlength⟩ := exists_serveAll_of_inService hs qs
  refine ⟨_, rs, hserve, hlength, ?_, fun c hc => (afterRequests_log_of_findSome? hqs hc herr).2⟩
  rw [cleanCall_iff hs hserve]
  refine ⟨fun hclear => ?_, fun hlegal => afterRequests_err_of_legal hlegal herr⟩
  by_contra hrefused
  have hfound : qs.findSome? cause ≠ none := fun h => hrefused (List.findSome?_eq_none_iff.1 h)
  obtain ⟨c, hc⟩ := Option.ne_none_iff_exists'.1 hfound
  obtain ⟨herr', -⟩ := afterRequests_log_of_findSome? hqs hc herr
  rw [hclear] at herr'
  cases herr'

end Sys2Proof.Machine
end

section
/-! Hash calls: their result (R111), several hosts (R190), the pseudo-instruction `hash` (R91), and
the procedure that verifies a file with the engine (R70, R165). -/

namespace Sys2Proof.Machine

/-! ### A hash call (R111) -/

theorem afterRequests_absorbs_hashes {absorbs : List Instr} (h : absorbs.all isAbsorb = true)
    {s : State} {bs : List Byte} (hs : s.Hashes bs) :
    (afterRequests (absorbs.map Instr.toRequest) s).Hashes (bs ++ fedBytes absorbs) := by
  obtain ⟨hacc, hcount⟩ := hs
  obtain ⟨hacc', hcount'⟩ := afterRequests_absorbs h s
  constructor
  · rw [hacc', hacc, fnvHash, fnvHash, fnvFold_append]
  · rw [hcount', hcount, List.length_append, BitVec.ofNat_add]

/-- A RD_RESULT after requests that leave the hash of `bs` answers that hash, and leaves it too. -/
theorem exists_serveAll_concat_rdResult {s : State} (hs : s.InService) {qs : List Request}
    {bs : List Byte} (h : (afterRequests qs s).Hashes bs) :
    ∃ t rs, serveAll (qs ++ [Instr.toRequest .rdResult]) s = .next (t, rs) ∧ t.InService ∧
      t.Hashes bs ∧ rs.getLast? = some ⟨false, fnvHash bs⟩ := by
  obtain ⟨rs, hserve, hlast⟩ := exists_serveAll_concat hs qs (Instr.toRequest .rdResult)
  rw [afterRequest_toRequest] at hserve hlast
  refine ⟨_, rs, hserve, afterInstr_inService (afterRequests_inService hs qs) _, h, ?_⟩
  obtain ⟨hacc, -⟩ := h
  rw [hlast, ← hacc]
  rfl

/-- A sequence of transactions is clean: each request is legal (R150). -/
theorem cleanCall_of_serveAll_map {is : List Instr} {s t : State} {rs : List Response}
    (hs : s.InService) (h : serveAll (is.map Instr.toRequest) s = .next (t, rs)) :
    cleanCall rs = true := by
  refine (cleanCall_iff hs h).2 fun q hq => ?_
  obtain ⟨i, -, rfl⟩ := List.mem_map.1 hq
  exact (cause_eq_none_iff _).2 ⟨i, decode_toRequest i⟩

theorem hashCall_eq_map (absorbs : List Instr) :
    hashCall absorbs = (Instr.wrCtrl true :: absorbs ++ [Instr.rdResult]).map Instr.toRequest := by
  simp [hashCall]

/-- INIT empties the stream and the absorbs fill it with the bytes they feed. -/
theorem exists_serveAll_hashCall {absorbs : List Instr} (h : absorbs.all isAbsorb = true)
    {s : State} (hs : s.InService) :
    ∃ t rs, serveAll (hashCall absorbs) s = .next (t, rs) ∧ t.InService ∧
      t.Hashes (fedBytes absorbs) ∧ cleanCall rs = true ∧
      rs.getLast? = some ⟨false, fnvHash (fedBytes absorbs)⟩ := by
  have hfed : (afterRequests (Instr.toRequest (.wrCtrl true) ::
      absorbs.map Instr.toRequest) s).Hashes (fedBytes absorbs) := by
    rw [afterRequests_cons, afterRequest_toRequest]
    exact afterRequests_absorbs_hashes h (afterInstr_init_hashes s)
  obtain ⟨t, rs, hserve, ht, hhash, hlast⟩ := exists_serveAll_concat_rdResult hs hfed
  have hcall : serveAll (hashCall absorbs) s = .next (t, rs) := hserve
  refine ⟨t, rs, hcall, ht, hhash, ?_, hlast⟩
  rw [hashCall_eq_map] at hcall
  exact cleanCall_of_serveAll_map hs hcall

/-- RD_COUNT answers the length of the stream, mod 2^32. -/
theorem afterInstr_rdCount_response {t : State} {bs : List Byte} (h : t.Hashes bs) :
    (afterInstr .rdCount t).response = some ⟨false, BitVec.ofNat 32 bs.length⟩ := by
  obtain ⟨-, hcount⟩ := h
  rw [← hcount]
  rfl

/-- Settles O33: a call leaves the hash of what it fed, and the reset state is that of the empty
stream. -/
theorem hashCallReturnsTheHash : Obligations.HashCallReturnsTheHash := by
  refine ⟨fun absorbs s hs h => ?_, fun absorbs h => ?_⟩
  · obtain ⟨t, rs, hserve, ht, hhash, hclean, hlast⟩ := exists_serveAll_hashCall h hs
    exact ⟨t, rs, hserve, hclean, hlast, _, exec_of_inService ht _,
      afterInstr_rdCount_response hhash⟩
  · have hfed := afterRequests_absorbs_hashes h reset_hashes
    obtain ⟨t, rs, hserve, -, -, hlast⟩ := exists_serveAll_concat_rdResult reset_inService hfed
    exact ⟨t, rs, hserve, hlast⟩

/-! ### Several hosts (R57, R190) -/

/-- A request that does not disturb leaves the stream as it is. -/
theorem streamStep_of_not_disturbs {q : Request} (h : disturbs q = false) (bs : List Byte) :
    streamStep bs q = bs := by
  cases hd : decode q with
  | error c => exact streamStep_of_decode_error hd bs
  | ok i =>
    have hi : i ≠ .wrCtrl true ∧ absorbedBytes i = [] := by
      simp only [disturbs, hd] at h
      cases i with
      | wrCtrl i => cases h
      | wrData8 b => cases h
      | wrData32 w => cases h
      | _ => exact ⟨nofun, rfl⟩
    obtain ⟨hinit, hbytes⟩ := hi
    rw [streamStep_of_decode_ok hd hinit, hbytes, List.append_nil]

@[simp] theorem streamAfter_cons (bs : List Byte) (q : Request) (qs : List Request) :
    streamAfter bs (q :: qs) = streamAfter (streamStep bs q) qs := rfl

theorem programOf_cons_own {h : Nat} {x : Issued} (hx : (x.host == h) = true) (xs : List Issued) :
    programOf h (x :: xs) = x.request :: programOf h xs := by
  simp [programOf, hx]

theorem programOf_cons_other {h : Nat} {x : Issued} (hx : (x.host == h) = false)
    (xs : List Issued) : programOf h (x :: xs) = programOf h xs := by
  simp [programOf, hx]

/-- Under exclusive use the stream is the one of the host's own program. -/
theorem streamAfter_of_exclusiveUse {h : Nat} {xs : List Issued} (hx : exclusiveUse h xs = true)
    (bs : List Byte) : streamAfter bs (acceptedOrder xs) = streamAfter bs (programOf h xs) := by
  induction xs generalizing bs with
  | nil => rfl
  | cons x xs ih =>
    rw [exclusiveUse, List.all_cons, Bool.and_eq_true] at hx
    obtain ⟨hfirst, hrest⟩ := hx
    rw [acceptedOrder, List.map_cons, streamAfter_cons]
    cases hhost : x.host == h with
    | true =>
      rw [programOf_cons_own hhost, streamAfter_cons]
      exact ih hrest _
    | false =>
      have hquiet : disturbs x.request = false := by simpa [hhost] using hfirst
      rw [programOf_cons_other hhost, streamStep_of_not_disturbs hquiet]
      exact ih hrest _

/-- The stream of absorbs grows by the bytes they feed. -/
theorem streamAfter_absorbs {absorbs : List Instr} (h : absorbs.all isAbsorb = true)
    (bs : List Byte) : streamAfter bs (absorbs.map Instr.toRequest) = bs ++ fedBytes absorbs := by
  induction absorbs generalizing bs with
  | nil => exact (List.append_nil bs).symm
  | cons i is ih =>
    rw [List.all_cons, Bool.and_eq_true] at h
    obtain ⟨hi, his⟩ := h
    rw [List.map_cons, streamAfter_cons,
      streamStep_of_decode_ok (decode_toRequest i) (ne_init_of_isAbsorb hi), ih his, fedBytes_cons,
      List.append_assoc]

/-- Settles O34: the engine hashes the stream it accepts, which under exclusive use is the host's.
-/
theorem exclusiveUseGivesTheHash : Obligations.ExclusiveUseGivesTheHash := by
  intro h absorbs between s hs habsorbs hprogram
  have hstream : (afterRequests (Instr.toRequest (.wrCtrl true) :: acceptedOrder between) s).Hashes
      (streamAfter [] (acceptedOrder between)) := by
    rw [afterRequests_cons, afterRequest_toRequest]
    exact afterRequests_hashes (afterInstr_init_hashes s) _
  obtain ⟨t, rs, hserve, -, -, hlast⟩ := exists_serveAll_concat_rdResult hs hstream
  refine ⟨t, rs, hserve, hlast, fun hexclusive => ?_⟩
  rw [hlast, streamAfter_of_exclusiveUse hexclusive, hprogram, streamAfter_absorbs habsorbs,
    List.nil_append]

/-! ### The pseudo-instruction `hash` (R91) -/

/-- Splitting undoes the packing of four bytes into a word. -/
theorem dataBytes_packBytes (b0 b1 b2 b3 : Byte) :
    dataBytes (packBytes b0 b1 b2 b3) = [b0, b1, b2, b3] := by
  have h3 : byte3 (packBytes b0 b1 b2 b3) = b3 := BitVec.extractLsb'_append_eq_right
  have h2 : byte2 (packBytes b0 b1 b2 b3) = b2 := by
    rw [byte2, packBytes, BitVec.extractLsb'_append_eq_of_le (by decide)]
    exact BitVec.extractLsb'_append_eq_right
  have h1 : byte1 (packBytes b0 b1 b2 b3) = b1 := by
    rw [byte1, packBytes, BitVec.extractLsb'_append_eq_of_le (by decide),
      BitVec.extractLsb'_append_eq_of_le (by decide)]
    exact BitVec.extractLsb'_append_eq_right
  have h0 : byte0 (packBytes b0 b1 b2 b3) = b0 := by
    rw [byte0, packBytes, BitVec.extractLsb'_append_eq_of_le (by decide),
      BitVec.extractLsb'_append_eq_of_le (by decide)]
    exact BitVec.extractLsb'_append_eq_left
  rw [dataBytes, h0, h1, h2, h3]

/-- The transactions `absorb bs` stands for: as many whole words as there are, then single bytes. -/
def absorbInstrs : List Byte → List Instr
  | b0 :: b1 :: b2 :: b3 :: rest => .wrData32 (packBytes b0 b1 b2 b3) :: absorbInstrs rest
  | rest => rest.map .wrData8

theorem assemble_absorb8Stmt (b : Byte) :
    assemble (absorb8Stmt b) = .ok (Instr.wrData8 b).toRequest := by
  refine (assemble_eq_ok_iff _ _).2 ⟨(wellFormed_wr_iff _ _).2 ⟨rfl, b.isLt⟩, ?_⟩
  rw [absorb8Stmt, stmtRequest, BitVec.ofNat_toNat, Instr.toRequest]

theorem assemble_absorb32Stmt (b0 b1 b2 b3 : Byte) : assemble (absorb32Stmt b0 b1 b2 b3) =
    .ok (Instr.wrData32 (packBytes b0 b1 b2 b3)).toRequest := by
  refine (assemble_eq_ok_iff _ _).2
    ⟨(wellFormed_wr_iff _ _).2 ⟨rfl, (packBytes b0 b1 b2 b3).isLt⟩, ?_⟩
  rw [absorb32Stmt, stmtRequest, BitVec.ofNat_toNat, BitVec.setWidth_eq, Instr.toRequest]

theorem assemble_absorbStmts (bs : List Byte) :
    (absorbStmts bs).map assemble = (absorbInstrs bs).map (fun i => .ok i.toRequest) := by
  induction bs using absorbInstrs.induct with
  | case1 b0 b1 b2 b3 rest ih =>
    rw [absorbStmts, absorbInstrs, List.map_cons, List.map_cons, assemble_absorb32Stmt, ih]
  | case2 rest hrest =>
    rw [absorbStmts.eq_2 rest hrest, absorbInstrs.eq_2 rest hrest, List.map_map, List.map_map]
    exact List.map_congr_left fun b _ => assemble_absorb8Stmt b

theorem fedBytes_map_wrData8 (bs : List Byte) : fedBytes (bs.map .wrData8) = bs := by
  induction bs with
  | nil => rfl
  | cons b bs ih => rw [List.map_cons, fedBytes_cons, ih]; rfl

theorem fedBytes_absorbInstrs (bs : List Byte) : fedBytes (absorbInstrs bs) = bs := by
  induction bs using absorbInstrs.induct with
  | case1 b0 b1 b2 b3 rest ih =>
    rw [absorbInstrs, fedBytes_cons, ih, absorbedBytes, dataBytes_packBytes]
    rfl
  | case2 rest hrest => rw [absorbInstrs.eq_2 rest hrest, fedBytes_map_wrData8]

theorem all_isAbsorb_absorbInstrs (bs : List Byte) : (absorbInstrs bs).all isAbsorb = true := by
  induction bs using absorbInstrs.induct with
  | case1 b0 b1 b2 b3 rest ih =>
    rw [absorbInstrs, List.all_cons, ih]
    rfl
  | case2 rest hrest =>
    rw [absorbInstrs.eq_2 rest hrest, List.all_map, List.all_eq_true]
    exact fun _ _ => rfl

/-- `hash bs` assembles to the hash call of the transactions its absorbs stand for. -/
theorem assemble_expand_hash (bs : List Byte) :
    (expand (.hash bs)).map assemble = (hashCall (absorbInstrs bs)).map Except.ok := by
  have hinit : assemble (.wr .ctrl 0x00000001) = .ok (Instr.toRequest (.wrCtrl true)) := by decide
  have hresult : assemble (.rd .result) = .ok (Instr.toRequest .rdResult) := by decide
  rw [expand, hashCall, List.cons_append, List.cons_append, List.map_cons, List.map_cons,
    List.map_append, List.map_append, assemble_absorbStmts, List.map_map, hinit]
  simp only [List.map_cons, List.map_nil, hresult]
  rfl

/-- Settles O37: the expansion is a hash call that feeds `bs`. -/
theorem hashPseudoRuns : Obligations.HashPseudoRuns := by
  intro bs s hs
  obtain ⟨t, rs, hserve, -, ⟨-, hcount⟩, hclean, hlast⟩ :=
    exists_serveAll_hashCall (all_isAbsorb_absorbInstrs bs) hs
  rw [fedBytes_absorbInstrs] at hcount hlast
  exact ⟨_, t, rs, assemble_expand_hash bs, hserve, hclean, hlast, hcount⟩

/-! ### A file verified with the engine (R70, R165) -/

theorem fedBytes_append (is js : List Instr) : fedBytes (is ++ js) = fedBytes is ++ fedBytes js :=
  List.flatMap_append

/-- The words at the multiples of 4 are the bytes in file order. -/
theorem fedBytes_fileWords (f : List Byte) (n : Nat) :
    fedBytes ((List.range n).map (fun k => .wrData32 (fileWord f (4 * k)))) =
      (List.range (4 * n)).map (fileByte f) := by
  induction n with
  | zero => rfl
  | succ n ih =>
    have hword : fedBytes [.wrData32 (fileWord f (4 * n))] =
        [fileByte f (4 * n), fileByte f (4 * n + 1), fileByte f (4 * n + 2),
          fileByte f (4 * n + 3)] :=
      dataBytes_packBytes _ _ _ _
    rw [List.range_succ, List.map_append, fedBytes_append, ih, List.map_singleton, hword,
      Nat.mul_succ]
    simp [List.range_succ]

/-- The bytes of a file from the first on, as far as there are. -/
theorem map_fileByte_range {f : List Byte} {n : Nat} (h : n ≤ f.length) :
    (List.range n).map (fileByte f) = f.take n := by
  refine List.ext_getElem (by simp [h]) fun i hi _ => ?_
  have hin : i < f.length := by
    rw [List.length_map, List.length_range] at hi
    omega
  rw [List.getElem_map, List.getElem_range, List.getElem_take, fileByte,
    List.getD_eq_getElem _ _ hin]

theorem length_fedBytes_regionAbsorbs (f : List Byte) :
    (fedBytes (regionAbsorbs f)).length = 780 := by
  rw [regionAbsorbs, fedBytes_fileWords, List.length_map, List.length_range]

/-- The 195 words of a file long enough are its hashed region. -/
theorem fedBytes_regionAbsorbs {f : List Byte} (h : minimumLength ≤ f.length) :
    fedBytes (regionAbsorbs f) = hashedRegion f := by
  rw [regionAbsorbs, fedBytes_fileWords]
  exact map_fileByte_range (fieldOffset_le_of_minimumLength_le h)

theorem all_isAbsorb_regionAbsorbs (f : List Byte) : (regionAbsorbs f).all isAbsorb = true := by
  rw [regionAbsorbs, List.all_map, List.all_eq_true]
  exact fun _ _ => rfl

/-- The procedure is a hash call of the 195 words and a RD_COUNT, whose response comes last. -/
theorem exists_serveAll_checksumScript (f : List Byte) {s : State} (hs : s.InService) :
    ∃ t rs, serveAll (checksumScript f) s = .next (t, rs ++ [⟨false, 780⟩]) ∧
      cleanCall rs = true ∧ rs.getLast? = some ⟨false, fnvHash (fedBytes (regionAbsorbs f))⟩ := by
  obtain ⟨t, rs, hserve, ht, hhash, hclean, hlast⟩ :=
    exists_serveAll_hashCall (all_isAbsorb_regionAbsorbs f) hs
  have hcount := afterInstr_rdCount_response hhash
  rw [length_fedBytes_regionAbsorbs] at hcount
  refine ⟨afterInstr .rdCount t, rs, ?_, hclean, hlast⟩
  rw [checksumScript, serveAll_append, hserve, andThen_next, serveAll_cons ht,
    afterRequest_toRequest, hcount]
  rfl

/-- The response before the last is the one to RD_RESULT. -/
theorem resultResponse_concat (rs : List Response) (r : Response) :
    resultResponse (rs ++ [r]) = rs.getLast? := by
  rw [resultResponse, List.reverse_append, List.reverse_singleton, List.singleton_append,
    List.getElem?_cons_succ, ← List.head?_eq_getElem?, List.head?_reverse]

/-- A clean run of the procedure gives the report of the result it reads. -/
theorem verifyOnEngine_of_cleanCall {f : List Byte} (h : minimumLength ≤ f.length) {s t : State}
    {rs : List Response} (hserve : serveAll (checksumScript f) s = .next (t, rs))
    (hclean : cleanCall rs = true) : verifyOnEngine f s =
      (resultResponse rs).map (fun r => .ok (reportOf f r.rdata)) := by
  have hany : rs.any Response.err = false := by
    rw [cleanCall, ← List.not_any_eq_all_not] at hclean
    simpa using hclean
  simp [verifyOnEngine, Nat.not_lt.2 h, hserve, hany]

/-- The engine's report of a file long enough is that of its hash. -/
theorem verifyOnEngine_of_le {f : List Byte} (h : minimumLength ≤ f.length) {s : State}
    (hs : s.InService) : verifyOnEngine f s = some (verify f) := by
  obtain ⟨t, rs, hserve, hclean, hlast⟩ := exists_serveAll_checksumScript f hs
  have hclean' : cleanCall (rs ++ [⟨false, 780⟩]) = true := by
    rw [cleanCall, List.all_append, Bool.and_eq_true]
    exact ⟨hclean, rfl⟩
  rw [verifyOnEngine_of_cleanCall h hserve hclean', resultResponse_concat, hlast,
    fedBytes_regionAbsorbs h, verify_of_le h]
  rfl

/-- Settles O38: without the field neither verification uses a hash; with it the engine's hash is
the pure one. -/
theorem engineVerifiesAFile : Obligations.EngineVerifiesAFile := by
  intro f s hs
  obtain ⟨t, rs, hserve, -, -⟩ := exists_serveAll_checksumScript f hs
  refine ⟨?_, t, _, hserve, List.getLast?_concat⟩
  by_cases hlen : minimumLength ≤ f.length
  · exact verifyOnEngine_of_le hlen hs
  · have hshort := Nat.not_le.1 hlen
    rw [verifyOnEngine_of_lt hshort, verify_of_lt hshort]

end Sys2Proof.Machine
end

section
/-! One step, input by input (R32, R33, R180 to R187): what an edge does in each phase, the output
ports, the latencies, and the handshake as a whole. -/

namespace Sys2Proof.Machine

/-! ### The step at each input -/

theorem step_of_powerLoss {s : State} (h : s.nextInput = .powerLoss) :
    step s = .next s.taken.losePower := by
  rw [step, h, applyInput]

theorem step_of_edge {s : State} {pins : PinSample} (h : s.nextInput = .edge pins) :
    step s = risingEdge pins s.taken := by
  rw [step, h, applyInput]

section
variable {s : State} {pins : PinSample} (h : s.nextInput = .edge pins)
include h

theorem step_of_reset (hrst : pins.rstN = false) : step s = .next s.taken.resetEdge := by
  rw [step_of_edge h, risingEdge, hrst]
  rfl

/-- An engine never reset idles while nothing is asked of it. -/
theorem step_of_unreset_idle (hrst : pins.rstN = true) (hphase : s.phase = .unreset)
    (hvalid : pins.reqValid = false) : step s = .next s.taken := by
  simp [step_of_edge h, risingEdge, hrst, hphase, hvalid]

theorem step_of_unreset_request (hrst : pins.rstN = true) (hphase : s.phase = .unreset)
    (hvalid : pins.reqValid = true) : step s = .fault .usedBeforeReset := by
  simp [step_of_edge h, risingEdge, hrst, hphase, hvalid]

theorem step_of_inReset (hrst : pins.rstN = true) (hphase : s.phase = .inReset) :
    step s = .next s.taken.releaseReset := by
  simp [step_of_edge h, risingEdge, hrst, hphase]

theorem step_of_running (hrst : pins.rstN = true) (hphase : s.phase = .running) :
    step s = runningEdge pins s.taken := by
  simp [step_of_edge h, risingEdge, hrst, hphase]

end

/-! ### The running engine at an edge (R32, R33) -/

section
variable {s : State} (hcause : s.cause ≠ 7#3) (pins : PinSample)
include hcause

theorem runningEdge_completes {q : Request} (h : s.outstanding = some ⟨q, 0⟩) :
    runningEdge pins s = perform q s := by
  simp [runningEdge, Config.reservedCause, hcause, h]

theorem runningEdge_waits {q : Request} {n : Nat} (h : s.outstanding = some ⟨q, n + 1⟩) :
    runningEdge pins s = .next (s.waitEdge q n) := by
  simp [runningEdge, Config.reservedCause, hcause, h]

theorem runningEdge_accepts (h : s.outstanding = none) (hvalid : pins.reqValid = true) :
    runningEdge pins s = .next (s.accept pins.request) := by
  simp [runningEdge, Config.reservedCause, hcause, h, hvalid]

theorem runningEdge_idles (h : s.outstanding = none) (hvalid : pins.reqValid = false) :
    runningEdge pins s = .next s.idleEdge := by
  simp [runningEdge, Config.reservedCause, hcause, h, hvalid]

end

/-- The step at which a request completes is the whole transaction (R33, R86). -/
theorem step_of_completesNow {s : State} {q : Request} (h : s.CompletesNow q)
    (hcause : s.cause ≠ 7#3) : step s = perform q s.taken := by
  obtain ⟨⟨pins, hnext, hrst⟩, hphase, houtstanding⟩ := h
  rw [step_of_running hnext hrst hphase]
  exact runningEdge_completes (s := s.taken) hcause pins houtstanding

/-- Settles O42: the completing step is the transaction of the request, by what it decodes to. -/
theorem stepRunsTheDecodedInstruction : Obligations.StepRunsTheDecodedInstruction := by
  intro s q h hcause
  rw [step_of_completesNow h hcause]
  refine ⟨fun i hd => ?_, fun c hd => ?_⟩
  · rw [perform, hd]
    rfl
  · exact perform_of_cause ((decode_eq_error_iff q c).1 hd) _

/-- Settles O43: the edges of a running engine at which no response starts. -/
theorem acceptanceAtAnEdge : Obligations.AcceptanceAtAnEdge := by
  intro s pins hnext hrst hphase hcause
  rw [step_of_running hnext hrst hphase]
  exact ⟨runningEdge_accepts (s := s.taken) hcause pins,
    runningEdge_idles (s := s.taken) hcause pins,
    fun q n => runningEdge_waits (s := s.taken) hcause pins⟩

/-! ### Reset (R180 to R186) -/

theorem resetEdge_inService (s : State) : s.resetEdge.InService :=
  ⟨(nofun : Phase.inReset ≠ .unreset), (by decide : 0#3 ≠ 7#3)⟩

/-- Settles O46: the reset edge, and RD_ID on the state it leaves, which is in service. -/
theorem resetEdgeSetsEveryElement : Obligations.ResetEdgeSetsEveryElement :=
  fun s _ hnext hrst => 
    ⟨step_of_reset hnext hrst, exec_of_inService (resetEdge_inService s.taken) _⟩

/-- Settles O47: the edge that releases reset ends the response only; what was held in reset has
nothing outstanding. -/
theorem releaseOfReset : Obligations.ReleaseOfReset := by
  intro s hphase
  refine ⟨by rw [State.reqReady, hphase], by rw [State.rspValid, hphase], fun pins hnext hrst => ?_⟩
  refine ⟨_, step_of_inReset hnext hrst hphase, rfl, rfl, rfl, rfl, rfl, rfl, rfl, ?_⟩
  rintro ⟨-, -, -, -, houtstanding, -⟩
  exact congrArg Option.isNone houtstanding

theorem nextInput_of_cons {s : State} {a : Input} {rest : List Input} (h : s.inputs = a :: rest) :
    s.nextInput = a := by
  rw [State.nextInput, h]

/-- Settles O48: the two edges, whatever the state was. -/
theorem bootReachesTheResetState : Obligations.BootReachesTheResetState := by
  intro s a b rest hinputs ha hb
  have hfirst : step s = .next s.taken.resetEdge := step_of_reset (nextInput_of_cons hinputs) ha
  have hrest : s.taken.resetEdge.inputs = .edge b :: rest := congrArg List.tail hinputs
  have hsecond : step s.taken.resetEdge = .next s.taken.resetEdge.taken.releaseReset :=
    step_of_inReset (nextInput_of_cons hrest) hb rfl
  have hleft : s.taken.resetEdge.taken.inputs = rest := congrArg List.tail hrest
  rw [runSteps_succ, hfirst, andThen_next, runSteps_succ, hsecond, andThen_next, runSteps_zero,
    ← hleft]
  rfl

/-! ### The output ports (R31 to R33) -/

theorem reqReady_of_running {s : State} (h : s.phase = .running) :
    s.reqReady = s.outstanding.isNone := by
  rw [State.reqReady, h]

theorem rspValid_of_running {s : State} (h : s.phase = .running) :
    s.rspValid = s.response.isSome := by
  rw [State.rspValid, h]

/-- ERR stands above RDATA in a response word (R83). -/
theorem Response.toWord_fields (r : Response) :
    r.toWord.getLsbD 32 = r.err ∧ r.toWord.extractLsb' 0 32 = r.rdata := by
  refine ⟨?_, BitVec.extractLsb'_append_eq_right⟩
  rw [Response.toWord, BitVec.getLsbD_append]
  simp

/-- Settles O50: the ports of the running engine show OUTSTANDING and the response. -/
theorem outputPorts : Obligations.OutputPorts := by
  intro s hphase
  rw [reqReady_of_running hphase, rspValid_of_running hphase]
  refine ⟨Option.isNone_iff_eq_none, Option.isSome_iff_ne_none, fun r hr => ?_⟩
  refine ⟨?_, ?_, Response.toWord_fields r⟩
  · simp [State.rspErr, hphase, hr]
  · simp [State.rspRdata, hphase, hr]

/-! ### Unusable states (U2, U7) -/

/-- Settles O51: in a state with a service fault every transaction ends in it. -/
theorem unusableStatesFault : Obligations.UnusableStatesFault := by
  refine ⟨fun q s hphase => ?_, fun s pins hphase hnext hrst hvalid => ?_,
    fun q s hphase hcause => ?_⟩
  · have hfault := serviceFault_of_unreset hphase
    exact ⟨perform_of_fault hfault q, exec_of_fault hfault⟩
  · exact step_of_unreset_request hnext hrst hphase hvalid
  · have hfault := serviceFault_of_reserved hphase hcause
    exact ⟨perform_of_fault hfault q, exec_of_fault hfault⟩

/-! ### Latencies (R187) -/

theorem responseDelay_of_decode_ok {q : Request} {i : Instr} (h : decode q = .ok i) (d : Nat) :
    responseDelay q d = latency i := by
  simp only [responseDelay, h]

theorem latency_pos (i : Instr) : 1 ≤ latency i := by cases i <;> exact Nat.succ_pos _

theorem responseDelay_pos (q : Request) (d : Nat) : 1 ≤ responseDelay q d := by
  cases hd : decode q with
  | ok i => exact responseDelay_of_decode_ok hd d ▸ latency_pos i
  | error c =>
    simp only [responseDelay, hd]
    exact Nat.succ_pos _

/-- Settles O44: each latency is one more than its free part. -/
theorem latencyOfEachKind : Obligations.LatencyOfEachKind := by
  refine ⟨fun i => ?_, fun q d =>
    ⟨responseDelay_pos q d, fun i h => responseDelay_of_decode_ok h d⟩⟩
  cases i <;> rfl

/-! ### The handshake (R32, R33, R188) -/

theorem runSteps_add (m n : Nat) (s : State) :
    runSteps (m + n) s = andThen (runSteps m s) (runSteps n) := by
  induction m generalizing s with
  | zero => rw [Nat.zero_add, runSteps_zero, andThen_next]
  | succ m ih =>
    rw [Nat.add_right_comm, runSteps_succ, runSteps_succ]
    cases step s with
    | next t => exact ih t
    | fault f => rfl
    | refused r => rfl

theorem runSteps_one (s : State) : runSteps 1 s = step s := by
  rw [runSteps_succ]
  cases step s <;> rfl

/-- `s` with a request outstanding since it was accepted in `s`: `wait` edges of its latency are
left, `inputs` are scheduled, and `taken` inputs were taken. -/
def State.inFlight (s : State) (q : Request) (wait : Nat) (inputs : List Input) (taken : Nat) :
    State :=
  { s with outstanding := some ⟨q, wait⟩, response := none, inputs := inputs,
           draws := s.draws + taken }

section
variable {s : State} (hphase : s.phase = .running) (hcause : s.cause ≠ 7#3)
include hphase hcause

theorem step_accepts_inFlight {q : Request} {rest : List Input}
    (houtstanding : s.outstanding = none) (hinputs : s.inputs = .edge ⟨true, true, q⟩ :: rest) :
    step s = .next (s.inFlight q.sampled (responseDelay q (s.draws + 1) - 1) rest 1) := by
  have hrest : s.taken.inputs = rest := congrArg List.tail hinputs
  rw [step_of_running (nextInput_of_cons hinputs) rfl hphase,
    runningEdge_accepts (s := s.taken) hcause _ houtstanding rfl, ← hrest]
  rfl

theorem step_inFlight_waits (q : Request) (n : Nat) {pins : PinSample} (hrst : pins.rstN = true)
    (rest : List Input) (d : Nat) :
    step (s.inFlight q (n + 1) (.edge pins :: rest) d) = .next (s.inFlight q n rest (d + 1)) := by
  rw [step_of_running (s := s.inFlight q (n + 1) (.edge pins :: rest) d) rfl hrst hphase]
  exact runningEdge_waits (s := (s.inFlight q (n + 1) (.edge pins :: rest) d).taken) hcause pins rfl

theorem step_inFlight_completes (q : Request) {pins : PinSample} (hrst : pins.rstN = true)
    (rest : List Input) (d : Nat) :
    step (s.inFlight q 0 (.edge pins :: rest) d) = perform q (s.inFlight q 0 rest (d + 1)) :=
  step_of_completesNow (s := s.inFlight q 0 (.edge pins :: rest) d)
    ⟨⟨pins, rfl, hrst⟩, hphase, rfl⟩ hcause

/-- As many edges without reset as are inside the latency only take their inputs and shorten the
wait. -/
theorem runSteps_inFlight (q : Request) (n : Nat) {edges : List PinSample}
    (hedges : edges.all PinSample.rstN = true) (rest : List Input) (d : Nat) :
    runSteps edges.length (s.inFlight q (n + edges.length) (edges.map .edge ++ rest) d) =
      .next (s.inFlight q n rest (d + edges.length)) := by
  induction edges generalizing d with
  | nil => rfl
  | cons pins edges ih =>
    rw [List.all_cons, Bool.and_eq_true] at hedges
    obtain ⟨hpins, hrest⟩ := hedges
    have hstep := step_inFlight_waits hphase hcause q (n + edges.length) hpins
      (edges.map .edge ++ rest) d
    have hdraws : d + 1 + edges.length = d + (edges.length + 1) := by omega
    rw [List.length_cons, runSteps_succ, List.map_cons, List.cons_append, ← Nat.add_assoc, hstep,
      andThen_next, ih hrest, hdraws]

/-- Part of the way through the latency the request is still in flight. -/
theorem runSteps_inFlight_of_lt (q : Request) {edges : List PinSample}
    (hedges : edges.all PinSample.rstN = true) (rest : List Input) (d : Nat) {j : Nat}
    (hj : j < edges.length) :
    runSteps j (s.inFlight q (edges.length - 1) (edges.map .edge ++ rest) d) =
      .next (s.inFlight q (edges.length - 1 - j) ((edges.drop j).map .edge ++ rest) (d + j)) := by
  have htake : (edges.take j).length = j := List.length_take_of_le (Nat.le_of_lt hj)
  have hfront : (edges.take j).all PinSample.rstN = true :=
    List.all_eq_true.2 fun x hx => List.all_eq_true.1 hedges x (List.mem_of_mem_take hx)
  have hleft : edges.length - 1 - j + j = edges.length - 1 := by omega
  have hrun := runSteps_inFlight hphase hcause q (edges.length - 1 - j) hfront
    ((edges.drop j).map .edge ++ rest) d
  rwa [htake, hleft, ← List.append_assoc, ← List.map_append, List.take_append_drop] at hrun

/-- The last edge of the latency performs the request. -/
theorem runSteps_inFlight_to_end (q : Request) {edges : List PinSample}
    (hedges : edges.all PinSample.rstN = true) (rest : List Input) (d : Nat)
    (hpos : 1 ≤ edges.length) :
    runSteps edges.length (s.inFlight q (edges.length - 1) (edges.map .edge ++ rest) d) =
      perform q (s.inFlight q 0 rest (d + edges.length)) := by
  rcases List.eq_nil_or_concat' edges with rfl | ⟨front, last, rfl⟩
  · exact absurd hpos (by decide)
  · obtain ⟨hfront, hlast⟩ : front.all PinSample.rstN = true ∧ last.rstN = true := by
      simpa using hedges
    have hwait := runSteps_inFlight hphase hcause q 0 hfront (.edge last :: rest) d
    rw [Nat.zero_add] at hwait
    simp only [List.length_append, List.length_singleton, Nat.add_sub_cancel, List.map_append,
      List.map_singleton, List.append_assoc, List.singleton_append]
    rw [runSteps_add, hwait, andThen_next, runSteps_one,
      step_inFlight_completes hphase hcause q hlast, Nat.add_assoc]

end

/-- A transaction ends what was outstanding and overwrites the response, so neither matters to it.
-/
theorem afterRequest_inFlight (q p : Request) (n : Nat) (s : State) (inputs : List Input)
    (d : Nat) : afterRequest q (s.inFlight p n inputs d) =
      afterRequest q { s with inputs := inputs, draws := s.draws + d } := by
  cases hd : decode q with
  | ok i =>
    rw [afterRequest_of_decode_ok hd, afterRequest_of_decode_ok hd]
    cases i with
    | wrCtrl i => cases i <;> rfl
    | wrStatus c => cases c <;> rfl
    | _ => rfl
  | error c =>
    rw [afterRequest_of_decode_error hd, afterRequest_of_decode_error hd, logError_respond_eq,
      logError_respond_eq]
    rfl

theorem perform_inFlight (q p : Request) (n : Nat) (s : State) (inputs : List Input) (d : Nat) :
    perform q (s.inFlight p n inputs d) =
      perform q { s with inputs := inputs, draws := s.draws + d } := by
  rw [perform_eq_serve, perform_eq_serve, afterRequest_inFlight]
  rfl

/-- What the host sees of a request in flight, and the registers meanwhile. -/
theorem inFlight_shows {s : State} (hphase : s.phase = .running) (q : Request) (n : Nat)
    (inputs : List Input) (d : Nat) :
    (s.inFlight q n inputs d).rspValid = false ∧ (s.inFlight q n inputs d).reqReady = false := by
  rw [rspValid_of_running (s := s.inFlight q n inputs d) hphase,
    reqReady_of_running (s := s.inFlight q n inputs d) hphase]
  exact ⟨rfl, rfl⟩

/-- Settles O45: after the acceptance the request is in flight, edge by edge, and the last edge of
the latency performs it as the engine kept it. -/
theorem handshakeRefinesTransaction : Obligations.HandshakeRefinesTransaction := by
  intro s q edges rest hphase hcause houtstanding hinputs hedges hlength
  have haccept := step_accepts_inFlight hphase hcause houtstanding hinputs
  rw [← hlength] at haccept
  constructor
  · have hpos : 1 ≤ edges.length := hlength ▸ responseDelay_pos q (s.draws + 1)
    have hdraws : 1 + edges.length = edges.length + 1 := Nat.add_comm _ _
    rw [runSteps_succ, haccept, andThen_next,
      runSteps_inFlight_to_end hphase hcause _ hedges rest 1 hpos, perform_sampled,
      perform_inFlight, hdraws]
    rfl
  · intro k hpos hle
    obtain ⟨j, rfl⟩ : ∃ j, k = j + 1 := ⟨k - 1, by omega⟩
    obtain ⟨hvalid, hready⟩ := inFlight_shows hphase q.sampled (edges.length - 1 - j)
      ((edges.drop j).map .edge ++ rest) (1 + j)
    refine ⟨_, ?_, hvalid, hready, rfl, rfl, rfl, rfl⟩
    rw [runSteps_succ, haccept, andThen_next,
      runSteps_inFlight_of_lt hphase hcause _ hedges rest 1 (by omega)]

end Sys2Proof.Machine
end

section
/-! What every step keeps (R24, R33, R83, R182, R187), what a rising edge can do to the four
registers (R22 to R24, R154), and where a run from power-up can stop (U2, U7). -/

namespace Sys2Proof.Machine

/-! ### The parts of the invariant -/

theorem responseLegal_of_none {s : State} (h : s.response = none) : s.ResponseLegal := by
  simp [State.ResponseLegal, h]

theorem waitLegal_of_none {s : State} (h : s.outstanding = none) : s.WaitLegal := by
  simp [State.WaitLegal, h]

/-- With a request outstanding the wait is legal when a legal request has less than its latency
left. -/
theorem waitLegal_iff {s : State} {q : Request} {n : Nat} (h : s.outstanding = some ⟨q, n⟩) :
    s.WaitLegal ↔ ∀ i, decode q = .ok i → n < latency i := by
  simp only [State.WaitLegal, h]
  cases decode q with
  | ok i => simp
  | error c => simp

/-! ### The log stays legal (R24, R154) -/

theorem afterInstr_logLegal {s : State} (h : s.LogLegal) (i : Instr) :
    (afterInstr i s).LogLegal := by
  by_cases hi : i = .wrStatus true
  · subst hi
    exact ⟨iff_of_true rfl rfl, (by decide : 0#3 ≠ 7#3)⟩
  · obtain ⟨herr, hcause⟩ := afterInstr_keeps_log hi s
    rwa [State.LogLegal, herr, hcause]

theorem logError_logLegal {s : State} (h : s.LogLegal) (c : AccessCause) :
    (s.logError c.code).LogLegal := by
  cases herr : s.err with
  | true =>
    rw [State.logError, herr]
    exact h
  | false =>
    obtain ⟨hzero, hseven⟩ := accessCause_code_legal c
    rw [State.logError, herr]
    exact ⟨iff_of_false hzero nofun, hseven⟩

theorem afterRequest_logLegal {s : State} (h : s.LogLegal) (q : Request) :
    (afterRequest q s).LogLegal := by
  cases hd : decode q with
  | ok i =>
    rw [afterRequest_of_decode_ok hd]
    exact afterInstr_logLegal h i
  | error c =>
    rw [afterRequest_of_decode_error hd]
    exact logError_logLegal h c

/-- A transaction answers with nothing outstanding, and an error with 0 (R33, R83). -/
theorem afterRequest_responseLegal (q : Request) (s : State) :
    (afterRequest q s).ResponseLegal := by
  have houtstanding := afterRequest_outstanding q s
  cases hd : decode q with
  | ok i =>
    rw [afterRequest_of_decode_ok hd] at houtstanding ⊢
    obtain ⟨v, hv⟩ := afterInstr_response i s
    simp [State.ResponseLegal, hv, houtstanding]
  | error c =>
    rw [afterRequest_of_decode_error hd]
    simp [State.ResponseLegal]

/-! ### Each kind of step keeps the invariant -/

theorem ne_unreset_of_running {s : State} (h : s.phase = .running) : s.phase ≠ .unreset := by
  rw [h]
  nofun

/-- A state outside reset and past the first reset meets the invariant by three of its clauses. -/
theorem inv_of_running {s : State} (hphase : s.phase = .running) (hlog : s.LogLegal)
    (hresponse : s.ResponseLegal) (hwait : s.WaitLegal) : s.Inv where
  logLegal _ := hlog
  resetHeld h := by rw [hphase] at h; cases h
  responseLegal := hresponse
  waitLegal _ := hwait
  noResponseBeforeReset h := by rw [hphase] at h; cases h

/-- Before the first reset only that no response is stored is asked. -/
theorem inv_of_unreset {s : State} (hphase : s.phase = .unreset) (hresponse : s.response = none) :
    s.Inv where
  logLegal h := absurd hphase h
  resetHeld h := by rw [hphase] at h; cases h
  responseLegal := responseLegal_of_none hresponse
  waitLegal h := absurd hphase h
  noResponseBeforeReset _ := hresponse

theorem resetEdge_inv (s : State) : s.resetEdge.Inv where
  logLegal _ := ⟨iff_of_true rfl rfl, (by decide : 0#3 ≠ 7#3)⟩
  resetHeld _ := ⟨rfl, rfl, rfl, rfl, rfl, rfl⟩
  responseLegal := responseLegal_of_none rfl
  waitLegal _ := waitLegal_of_none rfl
  noResponseBeforeReset _ := rfl

theorem losePower_inv (s : State) : s.losePower.Inv := inv_of_unreset rfl rfl

section
variable {s : State} (h : s.Inv)
include h

/-- Nothing the invariant speaks of is taken off with an input. -/
theorem State.Inv.taken : s.taken.Inv where
  logLegal := h.logLegal
  resetHeld := h.resetHeld
  responseLegal := h.responseLegal
  waitLegal := h.waitLegal
  noResponseBeforeReset := h.noResponseBeforeReset

theorem State.Inv.releaseReset (hphase : s.phase = .inReset) : s.releaseReset.Inv := by
  obtain ⟨-, -, -, -, houtstanding, -⟩ := h.resetHeld hphase
  have hlog : s.LogLegal := h.logLegal (by rw [hphase]; nofun)
  exact inv_of_running rfl hlog (responseLegal_of_none rfl) (waitLegal_of_none houtstanding)

variable (hphase : s.phase = .running)
include hphase

theorem State.Inv.idleEdge (houtstanding : s.outstanding = none) : s.idleEdge.Inv := by
  exact inv_of_running hphase (h.logLegal (ne_unreset_of_running hphase))
    (responseLegal_of_none rfl) (waitLegal_of_none houtstanding)

/-- A latency is at least 1, so one edge less is inside it. -/
theorem State.Inv.accept (q : Request) : (s.accept q).Inv := by
  have hlog : s.LogLegal := h.logLegal (ne_unreset_of_running hphase)
  refine inv_of_running hphase hlog (responseLegal_of_none rfl)
    ((waitLegal_iff (State.accept_outstanding s q)).2 fun i hd => ?_)
  rw [decode_sampled] at hd
  rw [responseDelay_of_decode_ok hd]
  exact Nat.sub_lt (latency_pos i) Nat.one_pos

theorem State.Inv.waitEdge {q : Request} {n : Nat}
    (houtstanding : s.outstanding = some ⟨q, n + 1⟩) :
    (s.waitEdge q n).Inv := by
  have hlog : s.LogLegal := h.logLegal (ne_unreset_of_running hphase)
  have hwait := (waitLegal_iff houtstanding).1 (h.waitLegal (ne_unreset_of_running hphase))
  exact inv_of_running hphase hlog (responseLegal_of_none rfl)
    ((waitLegal_iff (State.waitEdge_outstanding s q n)).2 fun i hd =>
      Nat.lt_of_succ_lt (hwait i hd))

theorem State.Inv.afterRequest (q : Request) : (afterRequest q s).Inv := by
  have hlog : s.LogLegal := h.logLegal (ne_unreset_of_running hphase)
  exact inv_of_running ((afterRequest_phase q s).trans hphase) (afterRequest_logLegal hlog q)
    (afterRequest_responseLegal q s) (waitLegal_of_none (afterRequest_outstanding q s))

theorem State.Inv.runningEdge {pins : PinSample} {t : State}
    (hstep : runningEdge pins s = .next t) : t.Inv := by
  obtain ⟨-, ⟨q, -, hperform⟩ | ⟨q, n, houtstanding, rfl⟩ | ⟨-, -, rfl⟩ | ⟨houtstanding, -, rfl⟩⟩ :=
    runningEdge_cases hstep
  · obtain ⟨-, rfl⟩ := (perform_eq_next_iff q s t).1 hperform
    exact h.afterRequest hphase q
  · exact h.waitEdge hphase houtstanding
  · exact h.accept hphase pins.request
  · exact h.idleEdge hphase houtstanding

end

/-- Settles O54: by what the step did. -/
theorem stepKeepsTheInvariant : Obligations.StepKeepsTheInvariant := by
  intro s t h hstep
  obtain ⟨-, rfl⟩ | ⟨pins, -, ⟨-, rfl⟩ | ⟨-, hphases⟩⟩ := step_cases hstep
  · exact losePower_inv _
  · exact resetEdge_inv _
  · obtain ⟨-, -, rfl⟩ | ⟨hphase, rfl⟩ | ⟨hphase, hedge⟩ := hphases
    · exact h.taken
    · exact h.taken.releaseReset hphase
    · exact h.taken.runningEdge hphase hedge

/-- Settles O53: the reset state is a running one with an empty log, power-up one before the first
reset. -/
theorem invariantAtResetAndPowerUp : Obligations.InvariantAtResetAndPowerUp := fun _ =>
  ⟨inv_of_running rfl ⟨iff_of_true rfl rfl, (by decide : 0#3 ≠ 7#3)⟩ (responseLegal_of_none rfl)
    (waitLegal_of_none rfl), inv_of_unreset rfl rfl⟩

/-! ### Runs from power-up (U2, U7) -/

theorem Reachable.inv {s : State} (h : Reachable s) : s.Inv := by
  induction h with
  | powerUp inputs => exact (invariantAtResetAndPowerUp inputs).2
  | step _ hstep ih => exact stepKeepsTheInvariant _ _ ih hstep

/-- A running engine with a legal CAUSE goes on at every edge. -/
theorem exists_runningEdge_next {s : State} (hs : s.InService) (pins : PinSample) :
    ∃ t, runningEdge pins s = .next t := by
  have hcause : s.cause ≠ 7#3 := hs.2
  match ho : s.outstanding with
  | some ⟨q, 0⟩ =>
    exact ⟨_, (runningEdge_completes hcause pins ho).trans (perform_of_inService hs q)⟩
  | some ⟨q, n + 1⟩ => exact ⟨_, runningEdge_waits hcause pins ho⟩
  | none =>
    cases hvalid : pins.reqValid with
    | true => exact ⟨_, runningEdge_accepts hcause pins ho hvalid⟩
    | false => exact ⟨_, runningEdge_idles hcause pins ho hvalid⟩

/-- A state in service goes on, whatever comes. -/
theorem exists_step_next {s : State} (hs : s.InService) : ∃ t, step s = .next t := by
  have hreset : s.phase ≠ .unreset := hs.1
  cases hnext : s.nextInput with
  | powerLoss => exact ⟨_, step_of_powerLoss hnext⟩
  | edge pins =>
    cases hrst : pins.rstN with
    | false => exact ⟨_, step_of_reset hnext hrst⟩
    | true =>
      cases hphase : s.phase with
      | unreset => exact absurd hphase hreset
      | inReset => exact ⟨_, step_of_inReset hnext hrst hphase⟩
      | running =>
        rw [step_of_running hnext hrst hphase]
        exact exists_runningEdge_next (s := s.taken) hs pins

/-- Before the first reset a step goes on unless a request is presented at an edge without reset. -/
theorem step_of_unreset {s : State} (hphase : s.phase = .unreset) :
    (∃ t, step s = .next t) ∨ (step s = .fault .usedBeforeReset ∧
      ∃ pins, s.nextInput = .edge pins ∧ pins.rstN = true ∧ pins.reqValid = true) := by
  cases hnext : s.nextInput with
  | powerLoss => exact .inl ⟨_, step_of_powerLoss hnext⟩
  | edge pins =>
    cases hrst : pins.rstN with
    | false => exact .inl ⟨_, step_of_reset hnext hrst⟩
    | true =>
      cases hvalid : pins.reqValid with
      | false => exact .inl ⟨_, step_of_unreset_idle hnext hrst hphase hvalid⟩
      | true =>
        exact .inr ⟨step_of_unreset_request hnext hrst hphase hvalid, pins, rfl, hrst, hvalid⟩

/-- Settles O55: a reachable state has the invariant, so past the first reset it is in service. -/
theorem reachableStatesOnlyFaultBeforeReset : Obligations.ReachableStatesOnlyFaultBeforeReset := by
  intro s h
  by_cases hphase : s.phase = .unreset
  · obtain hgoes | ⟨hfault, hpins⟩ := step_of_unreset hphase
    · exact .inl hgoes
    · exact .inr ⟨hfault, hphase, hpins⟩
  · obtain ⟨-, hcause⟩ := h.inv.logLegal hphase
    exact .inl (exists_step_next ⟨hphase, hcause⟩)

/-! ### A rising edge and the registers (R22 to R24, R154) -/

/-- A rising edge resets the engine, leaves the four registers, or completes a request. -/
theorem risingEdge_registers {s t : State} {pins : PinSample} (hnext : s.nextInput = .edge pins)
    (hstep : step s = .next t) :
    (pins.rstN = false ∧ t = s.taken.resetEdge) ∨ t.SameRegisters s ∨
      ∃ q, s.CompletesNow q ∧ t = afterRequest q s.taken := by
  cases hrst : pins.rstN with
  | false =>
    rw [step_of_reset hnext hrst] at hstep
    cases hstep
    exact .inl ⟨rfl, rfl⟩
  | true =>
    refine .inr ?_
    obtain ⟨hloss, -⟩ | ⟨pins', hnext', ⟨hrst', -⟩ | ⟨-, hphases⟩⟩ := step_cases hstep
    · rw [hnext] at hloss
      cases hloss
    · rw [hnext] at hnext'
      cases hnext'
      rw [hrst] at hrst'
      cases hrst'
    · obtain ⟨-, -, rfl⟩ | ⟨-, rfl⟩ | ⟨hphase, hedge⟩ := hphases
      · exact .inl (.refl s)
      · exact .inl (.refl s)
      · obtain ⟨-, ⟨q, houtstanding, hperform⟩ | ⟨q, n, -, rfl⟩ | ⟨-, -, rfl⟩ | ⟨-, -, rfl⟩⟩ :=
          runningEdge_cases hedge
        · obtain ⟨-, rfl⟩ := (perform_eq_next_iff q _ t).1 hperform
          exact .inr ⟨q, ⟨⟨pins, hnext, hrst⟩, hphase, houtstanding⟩, rfl⟩
        · exact .inl (.refl s)
        · exact .inl (.refl s)
        · exact .inl (.refl s)

/-- Settles O29: an edge that neither resets nor completes a request leaves the log, and so does
every request but the WR_STATUS that clears it. -/
theorem errIsSticky : Obligations.ErrIsSticky := by
  refine ⟨fun s code herr => by rw [State.logError, herr]; rfl,
    fun s code herr => by rw [State.logError, herr]; rfl, fun s t h => ?_,
    fun s t pins hnext hstep herr hlost => ?_⟩
  · obtain ⟨-, rfl⟩ := (exec_eq_next_iff _ s t).1 h
    exact afterInstr_keeps_log (i := .wrCtrl true) nofun s
  · have hkept (herr' : t.err = s.err) (hcause' : t.cause = s.cause) : False := by
      rcases hlost with hclear | hcause
      · rw [hclear, herr] at herr'
        cases herr'
      · exact hcause hcause'
    obtain ⟨hrst, -⟩ | ⟨-, -, herr', hcause'⟩ | ⟨q, hcompletes, rfl⟩ :=
      risingEdge_registers hnext hstep
    · exact .inl hrst
    · exact (hkept herr' hcause').elim
    · refine .inr ⟨q, hcompletes, ?_⟩
      by_contra hq
      obtain ⟨herr', hcause'⟩ := afterRequest_log_of_err hq (s := s.taken) herr
      exact hkept (herr'.trans herr.symm) hcause'

/-- Settles O30: of all an edge can do only a refused request's completion sets ERR. -/
theorem errSetOnlyByRefusal : Obligations.ErrSetOnlyByRefusal := by
  intro s t pins hnext hstep herr hset
  obtain ⟨-, rfl⟩ | ⟨-, -, herr', -⟩ | ⟨q, hcompletes, rfl⟩ := risingEdge_registers hnext hstep
  · cases hset
  · rw [hset, herr] at herr'
    cases herr'
  · cases hcause : cause q with
    | none =>
      have hclear := afterRequest_err_of_legal hcause (s := s.taken) herr
      rw [hset] at hclear
      cases hclear
    | some c =>
      obtain ⟨-, hlogged⟩ := afterRequest_log_of_cause hcause (s := s.taken) herr
      refine ⟨q, c, hcompletes, hcause, hlogged, ?_⟩
      rw [afterRequest_of_decode_error ((decode_eq_error_iff q c).2 hcause), State.respond_response]

/-- Which requests move ACC or COUNT, and to what. -/
theorem afterRequest_writes_hash {q : Request} {s : State}
    (h : (afterRequest q s).acc ≠ s.acc ∨ (afterRequest q s).count ≠ s.count) :
    (decode q = .ok (.wrCtrl true) ∧ (afterRequest q s).acc = 0x811c9dc5 ∧
        (afterRequest q s).count = 0) ∨
      (∃ b, decode q = .ok (.wrData8 b) ∧ (afterRequest q s).acc = fnvStep s.acc b ∧
        (afterRequest q s).count = s.count + 1) ∨
      (∃ w, decode q = .ok (.wrData32 w) ∧ (afterRequest q s).acc = fnvFold s.acc (dataBytes w) ∧
        (afterRequest q s).count = s.count + 4) := by
  cases hd : decode q with
  | error c =>
    rw [afterRequest_of_decode_error hd] at h
    simp at h
  | ok i =>
    rw [afterRequest_of_decode_ok hd] at h ⊢
    have hunmoved (hinit : i ≠ .wrCtrl true) (hbytes : absorbedBytes i = []) : False := by
      obtain ⟨hacc, hcount⟩ := afterInstr_keeps_hash hinit hbytes s
      exact h.elim (· hacc) (· hcount)
    cases i with
    | wrCtrl i =>
      cases i with
      | false => exact (hunmoved nofun rfl).elim
      | true => exact .inl ⟨rfl, rfl, rfl⟩
    | wrData8 b => exact .inr (.inl ⟨b, rfl, rfl, rfl⟩)
    | wrData32 w => exact .inr (.inr ⟨w, rfl, rfl, rfl⟩)
    | _ => exact (hunmoved nofun rfl).elim

/-- Settles O52: an edge that moves ACC or COUNT resets the engine or completes a request that does.
-/
theorem onlyHashCommandsWriteAcc : Obligations.OnlyHashCommandsWriteAcc := by
  intro s t pins hnext hstep hmoved
  obtain ⟨hrst, rfl⟩ | ⟨hacc, hcount, -, -⟩ | ⟨q, hcompletes, rfl⟩ :=
    risingEdge_registers hnext hstep
  · exact .inl ⟨hrst, rfl, rfl⟩
  · exact (hmoved.elim (· hacc) (· hcount)).elim
  · exact .inr ⟨q, hcompletes, afterRequest_writes_hash (s := s.taken) hmoved⟩

end Sys2Proof.Machine
end
